-- ==== Sys2Proof/Word.lean ====
section
/-! DEFINITION. The word types of the block and the host operation key. -/

namespace Sys2Proof

/-- A 32-bit register value, command word or binary32 sample (10_state R20, 00_scope R9). -/
abbrev Word := BitVec 32

/-- A host operation key: `W` at bit 40, `OFF` at 39..32, `DATA` at 31..0 (30_encoding R63). -/
abbrev Key := BitVec 41

/-- A binary32 word with the value `+0.0` (00_scope R9). -/
def plusZero : Word := 0x00000000#32

end Sys2Proof
end

