-- ==== Sys2Proof/Syntax.lean ====
section
/-! DEFINITION. The host operations of the block: one constructor per row of spec/opcode_table.json, in the table's order. -/

namespace Sys2Proof

/-- A host operation (30_encoding R63, R64). The command rows carry the operand bits `RSV` (23:4) and `MODE` (3:0)
that the command's own check reads (R65, R69); `cmdIllegal` also carries its opcode; a write carries its `DATA` word
(R68); the two default rows carry the byte offset. -/
inductive Instr where
  | nop (rsv : BitVec 20) (mode : BitVec 4)
  | init (rsv : BitVec 20) (mode : BitVec 4)
  | reset (rsv : BitVec 20) (mode : BitVec 4)
  | irBegin (rsv : BitVec 20) (mode : BitVec 4)
  | clrErr (rsv : BitVec 20) (mode : BitVec 4)
  | cmdIllegal (opc : BitVec 8) (rsv : BitVec 20) (mode : BitVec 4)
  | wrCfgB (data : Word)
  | wrCfgN (data : Word)
  | wrIrData (data : Word)
  | wrDin (data : Word)
  | wrDbgSel (data : Word)
  | rdId
  | rdStatus
  | rdCfgB
  | rdCfgN
  | rdIrWptr
  | rdDout
  | rdTailLen
  | rdNumBlocks
  | rdActB
  | rdActN
  | rdIndexInBlock
  | rdHistCursor
  | rdDbgSel
  | rdDbgData
  | rdCmd
  | rdIrData
  | rdDin
  | rdOther (off : BitVec 8)
  | other (off : BitVec 8) (data : Word)
  deriving DecidableEq, Repr

/-- What the host puts on its port in one access: the byte offset from `BASE` (20_memory R49), the width in bits
(R51), the direction and, for a write of 32 bits, the word written. -/
structure Access where
  off : Nat
  width : Nat
  write : Bool
  data : Word
  deriving DecidableEq, Repr

/-- Why an access has no host operation key (20_memory R49, R51, R52). -/
inductive KeyError where
  /-- The offset lies outside the 256-byte window: the access is not the block's (R49). -/
  | outsideWindow
  /-- The access is not 32 bits wide (R51). -/
  | width
  /-- The access is 32 bits wide at an offset that is no multiple of 4 (R52). -/
  | alignment
  deriving DecidableEq, Repr

end Sys2Proof
end

