-- ==== Sys2Proof/WellFormed.lean ====
section
/-! DEFINITION. Which terms of `Instr` stand for a host operation key: an aligned offset (30_encoding R63) that no
earlier row of the opcode table takes (R64). -/

namespace Sys2Proof

/-- The offset is aligned to a word (20_memory R52). -/
def alignedOffset (off : BitVec 8) : Bool := off &&& 0x03#8 == 0x00#8

/-- The offsets whose read has a row of its own in the opcode table: every register of 10_state R20. -/
def readOffsets : List (BitVec 8) :=
  [0x00, 0x04, 0x08, 0x10, 0x14, 0x18, 0x1C, 0x20, 0x24, 0x28, 0x2C, 0x30, 0x34, 0x38, 0x3C, 0x40, 0x44]

/-- The offsets whose write has a row of its own: the writable registers of 10_state R20. -/
def writeOffsets : List (BitVec 8) := [0x04, 0x10, 0x14, 0x1C, 0x20, 0x40]

/-- The five legal command opcodes are `0x00` to `0x04` (30_encoding R66). -/
def legalOpcode (opc : BitVec 8) : Bool := decide (opc.toNat < 5)

/-- The term is the decoding of some host operation key. -/
def Instr.wellFormed : Instr → Bool
  | .cmdIllegal opc _ _ => !legalOpcode opc
  | .rdOther off => alignedOffset off && !readOffsets.contains off
  | .other off _ => alignedOffset off && !writeOffsets.contains off
  | .nop _ _ | .init _ _ | .reset _ _ | .irBegin _ _ | .clrErr _ _ => true
  | .wrCfgB _ | .wrCfgN _ | .wrIrData _ | .wrDin _ | .wrDbgSel _ => true
  | .rdId | .rdStatus | .rdCfgB | .rdCfgN | .rdIrWptr | .rdDout | .rdTailLen | .rdNumBlocks | .rdActB | .rdActN => true
  | .rdIndexInBlock | .rdHistCursor | .rdDbgSel | .rdDbgData | .rdCmd | .rdIrData | .rdDin => true

end Sys2Proof
end

