-- ==== Sys2Proof/Decode.lean ====
section
/-! DEFINITION. Forming a host operation key from an access, decoding a key, and the encoder (30_encoding R63 to R69).
`decodeKey` reads the fields of the key; `opcodeTable` is spec/opcode_table.json row by row and `tableDecode` the
"first matching row" reading of R64. -/

namespace Sys2Proof

/-- `OP[40]`, the direction (30_encoding R63). -/
def keyW (k : Key) : Bool := k.getLsbD 40

/-- `OP[39:32]`, the byte offset. -/
def keyOff (k : Key) : BitVec 8 := k.extractLsb' 32 8

/-- `OP[31:0]`, the written word. -/
def keyData (k : Key) : Word := k.extractLsb' 0 32

/-- The key with the given fields. -/
def mkKey (w : Bool) (off : BitVec 8) (data : Word) : Key := BitVec.ofBool w ++ off ++ data

/-- `CMD[31:24]`, the opcode of a command word (30_encoding R65). -/
def cmdOpc (w : Word) : BitVec 8 := w.extractLsb' 24 8

/-- `CMD[23:4]`, the reserved bits of a command word. -/
def cmdRsv (w : Word) : BitVec 20 := w.extractLsb' 4 20

/-- `CMD[3:0]`, the mode field of a command word. -/
def cmdMode (w : Word) : BitVec 4 := w.extractLsb' 0 4

/-- The command word with the given fields (30_encoding R65). -/
def mkCmd (opc : BitVec 8) (rsv : BitVec 20) (mode : BitVec 4) : Word := opc ++ rsv ++ mode

/-- A write to `CMD`: the opcode names the row, any other opcode is `CMD_ILLEGAL` (30_encoding R64, R66, R69). -/
def decodeCmd (d : Word) : Instr :=
  if cmdOpc d = 0x00#8 then .nop (cmdRsv d) (cmdMode d)
  else if cmdOpc d = 0x01#8 then .init (cmdRsv d) (cmdMode d)
  else if cmdOpc d = 0x02#8 then .reset (cmdRsv d) (cmdMode d)
  else if cmdOpc d = 0x03#8 then .irBegin (cmdRsv d) (cmdMode d)
  else if cmdOpc d = 0x04#8 then .clrErr (cmdRsv d) (cmdMode d)
  else .cmdIllegal (cmdOpc d) (cmdRsv d) (cmdMode d)

/-- A write at a byte offset (10_state R20, 30_encoding R64); a write that no row takes is `OTHER`. -/
def decodeWrite (off : BitVec 8) (d : Word) : Instr :=
  if off = 0x04#8 then decodeCmd d
  else if off = 0x10#8 then .wrCfgB d
  else if off = 0x14#8 then .wrCfgN d
  else if off = 0x1C#8 then .wrIrData d
  else if off = 0x20#8 then .wrDin d
  else if off = 0x40#8 then .wrDbgSel d
  else .other off d

/-- A read at a byte offset (10_state R20, 30_encoding R64); a read that no row takes is `RD_OTHER`. -/
def decodeRead (off : BitVec 8) : Instr :=
  if off = 0x00#8 then .rdId
  else if off = 0x08#8 then .rdStatus
  else if off = 0x10#8 then .rdCfgB
  else if off = 0x14#8 then .rdCfgN
  else if off = 0x18#8 then .rdIrWptr
  else if off = 0x24#8 then .rdDout
  else if off = 0x28#8 then .rdTailLen
  else if off = 0x2C#8 then .rdNumBlocks
  else if off = 0x30#8 then .rdActB
  else if off = 0x34#8 then .rdActN
  else if off = 0x38#8 then .rdIndexInBlock
  else if off = 0x3C#8 then .rdHistCursor
  else if off = 0x40#8 then .rdDbgSel
  else if off = 0x44#8 then .rdDbgData
  else if off = 0x04#8 then .rdCmd
  else if off = 0x1C#8 then .rdIrData
  else if off = 0x20#8 then .rdDin
  else .rdOther off

/-- The operation a key names; total, every key names exactly one (30_encoding R64). -/
def decodeKey (k : Key) : Instr :=
  if keyW k then decodeWrite (keyOff k) (keyData k) else decodeRead (keyOff k)

/-- The key of an access, or why it has none: first the window (20_memory R49), then the width (R51), then the
alignment (R52). The `DATA` of a read is 0 (30_encoding R63). -/
def accessKey (a : Access) : Except KeyError Key :=
  if 256 ≤ a.off then .error .outsideWindow
  else if a.width ≠ 32 then .error .width
  else if a.off % 4 ≠ 0 then .error .alignment
  else .ok (mkKey a.write (BitVec.ofNat 8 a.off) (if a.write then a.data else 0#32))

/-- The operation of an access, or the name of the reason it is none. -/
def decodeAccess (a : Access) : Except KeyError Instr :=
  match accessKey a with
  | .ok k => .ok (decodeKey k)
  | .error e => .error e

/-- The access that carries a key. -/
def accessOfKey (k : Key) : Access :=
  { off := (keyOff k).toNat, width := 32, write := keyW k, data := keyData k }

/-- The instruction of an opcode-table word: the key is the word, bit 0 its least significant bit. The table's 41-bit
keys are not laid out in bytes (20_memory R50: a value is moved whole), so no byte order enters. -/
def decodeTableWord (_nbits w : Nat) : Option Instr :=
  if w < 2 ^ 41 then some (decodeKey (BitVec.ofNat 41 w)) else none

/-- The key of an instruction (30_encoding R63, R65). -/
def encodeKey : Instr → Key
  | .nop rsv mode => mkKey true 0x04#8 (mkCmd 0x00#8 rsv mode)
  | .init rsv mode => mkKey true 0x04#8 (mkCmd 0x01#8 rsv mode)
  | .reset rsv mode => mkKey true 0x04#8 (mkCmd 0x02#8 rsv mode)
  | .irBegin rsv mode => mkKey true 0x04#8 (mkCmd 0x03#8 rsv mode)
  | .clrErr rsv mode => mkKey true 0x04#8 (mkCmd 0x04#8 rsv mode)
  | .cmdIllegal opc rsv mode => mkKey true 0x04#8 (mkCmd opc rsv mode)
  | .wrCfgB d => mkKey true 0x10#8 d
  | .wrCfgN d => mkKey true 0x14#8 d
  | .wrIrData d => mkKey true 0x1C#8 d
  | .wrDin d => mkKey true 0x20#8 d
  | .wrDbgSel d => mkKey true 0x40#8 d
  | .rdId => mkKey false 0x00#8 0#32
  | .rdStatus => mkKey false 0x08#8 0#32
  | .rdCfgB => mkKey false 0x10#8 0#32
  | .rdCfgN => mkKey false 0x14#8 0#32
  | .rdIrWptr => mkKey false 0x18#8 0#32
  | .rdDout => mkKey false 0x24#8 0#32
  | .rdTailLen => mkKey false 0x28#8 0#32
  | .rdNumBlocks => mkKey false 0x2C#8 0#32
  | .rdActB => mkKey false 0x30#8 0#32
  | .rdActN => mkKey false 0x34#8 0#32
  | .rdIndexInBlock => mkKey false 0x38#8 0#32
  | .rdHistCursor => mkKey false 0x3C#8 0#32
  | .rdDbgSel => mkKey false 0x40#8 0#32
  | .rdDbgData => mkKey false 0x44#8 0#32
  | .rdCmd => mkKey false 0x04#8 0#32
  | .rdIrData => mkKey false 0x1C#8 0#32
  | .rdDin => mkKey false 0x20#8 0#32
  | .rdOther off => mkKey false off 0#32
  | .other off d => mkKey true off d

/-- One row of spec/opcode_table.json. -/
structure OpcodeRow where
  mnemonic : String
  pattern : Key
  mask : Key
  build : Key → Instr

/-- The row takes the key (30_encoding R64). -/
def rowMatches (k : Key) (r : OpcodeRow) : Bool := k &&& r.mask == r.pattern

/-- The operand bits of a command key. -/
def buildCmd (f : BitVec 20 → BitVec 4 → Instr) (k : Key) : Instr := f (cmdRsv (keyData k)) (cmdMode (keyData k))

/-- The command rows of spec/opcode_table.json. -/
def commandRows : List OpcodeRow := [
  ⟨"NOP", 0x10400000000, 0x1FFFF000000, buildCmd .nop⟩,
  ⟨"INIT", 0x10401000000, 0x1FFFF000000, buildCmd .init⟩,
  ⟨"RESET", 0x10402000000, 0x1FFFF000000, buildCmd .reset⟩,
  ⟨"IR_BEGIN", 0x10403000000, 0x1FFFF000000, buildCmd .irBegin⟩,
  ⟨"CLR_ERR", 0x10404000000, 0x1FFFF000000, buildCmd .clrErr⟩,
  ⟨"CMD_ILLEGAL", 0x10400000000, 0x1FF00000000, fun k => buildCmd (.cmdIllegal (cmdOpc (keyData k))) k⟩]

/-- The register write rows. -/
def writeRows : List OpcodeRow := [
  ⟨"WR_CFG_B", 0x11000000000, 0x1FF00000000, fun k => .wrCfgB (keyData k)⟩,
  ⟨"WR_CFG_N", 0x11400000000, 0x1FF00000000, fun k => .wrCfgN (keyData k)⟩,
  ⟨"WR_IR_DATA", 0x11C00000000, 0x1FF00000000, fun k => .wrIrData (keyData k)⟩,
  ⟨"WR_DIN", 0x12000000000, 0x1FF00000000, fun k => .wrDin (keyData k)⟩,
  ⟨"WR_DBG_SEL", 0x14000000000, 0x1FF00000000, fun k => .wrDbgSel (keyData k)⟩]

/-- The register read rows. -/
def readRows : List OpcodeRow := [
  ⟨"RD_ID", 0x00000000000, 0x1FF00000000, fun _ => .rdId⟩,
  ⟨"RD_STATUS", 0x00800000000, 0x1FF00000000, fun _ => .rdStatus⟩,
  ⟨"RD_CFG_B", 0x01000000000, 0x1FF00000000, fun _ => .rdCfgB⟩,
  ⟨"RD_CFG_N", 0x01400000000, 0x1FF00000000, fun _ => .rdCfgN⟩,
  ⟨"RD_IR_WPTR", 0x01800000000, 0x1FF00000000, fun _ => .rdIrWptr⟩,
  ⟨"RD_DOUT", 0x02400000000, 0x1FF00000000, fun _ => .rdDout⟩,
  ⟨"RD_TAIL_LEN", 0x02800000000, 0x1FF00000000, fun _ => .rdTailLen⟩,
  ⟨"RD_NUM_BLOCKS", 0x02C00000000, 0x1FF00000000, fun _ => .rdNumBlocks⟩,
  ⟨"RD_ACT_B", 0x03000000000, 0x1FF00000000, fun _ => .rdActB⟩,
  ⟨"RD_ACT_N", 0x03400000000, 0x1FF00000000, fun _ => .rdActN⟩,
  ⟨"RD_INDEX_IN_BLOCK", 0x03800000000, 0x1FF00000000, fun _ => .rdIndexInBlock⟩,
  ⟨"RD_HIST_CURSOR", 0x03C00000000, 0x1FF00000000, fun _ => .rdHistCursor⟩,
  ⟨"RD_DBG_SEL", 0x04000000000, 0x1FF00000000, fun _ => .rdDbgSel⟩,
  ⟨"RD_DBG_DATA", 0x04400000000, 0x1FF00000000, fun _ => .rdDbgData⟩,
  ⟨"RD_CMD", 0x00400000000, 0x1FF00000000, fun _ => .rdCmd⟩,
  ⟨"RD_IR_DATA", 0x01C00000000, 0x1FF00000000, fun _ => .rdIrData⟩,
  ⟨"RD_DIN", 0x02000000000, 0x1FF00000000, fun _ => .rdDin⟩]

/-- The default rows, last in the table. -/
def defaultRows : List OpcodeRow := [
  ⟨"RD_OTHER", 0x00000000000, 0x10000000000, fun k => .rdOther (keyOff k)⟩,
  ⟨"OTHER", 0x00000000000, 0x00000000000, fun k => .other (keyOff k) (keyData k)⟩]

/-- spec/opcode_table.json, its 30 rows in order. -/
def opcodeTable : List OpcodeRow := commandRows ++ writeRows ++ readRows ++ defaultRows

/-- The first row that takes the key (30_encoding R64). -/
def tableDecode (k : Key) : Option Instr := (opcodeTable.find? (rowMatches k)).map fun r => r.build k

end Sys2Proof
end

