-- ==== Sys2Proof/Config.lean ====
section
/-! DEFINITION. What an implementation fixes (00_scope R6) and the values the spec leaves open (93 U1 to U9).
The open constants have no body: nothing can be proved about their values but what the constraints around them say. -/

namespace Sys2Proof

/-- The five internal memories (20_memory R55), in the order of the debug select codes `MSEL` 0 to 4 (42_control R111). -/
inductive MemSel where
  | acc | saved | hist | irspec | irbuf
  deriving DecidableEq, Repr

/-- The capacities of one implementation (00_scope R6). -/
structure Caps where
  /-- `B_MAX`, the largest accepted block length. -/
  bMax : Nat
  /-- `N_MAX`, the capacity of `IRBUF` in samples. -/
  nMax : Nat
  /-- `SPEC_WORDS`, the capacity in words of `IRSPEC` and of `HIST`. -/
  specWords : Nat
  deriving DecidableEq, Repr

namespace Config

/-- Open: the exponent of `B_MAX` before its range is imposed (log entry 1). -/
opaque log2BMaxRaw : Nat
/-- Open: `N_MAX` before its range is imposed (log entry 1). -/
opaque nMaxRaw : Nat
/-- Open: `SPEC_WORDS` before its range is imposed (log entry 1). -/
opaque specWordsRaw : Nat
/-- Open: `BASE / 256` (20_memory R49). -/
opaque baseRaw : Nat
/-- Open: the sign and payload of `NAN_RESULT` (00_scope R6, R12). -/
opaque nanRaw : BitVec 32
/-- Open: word `k` of the forward transform of a vector (43_fft_port R118), before P3 of R119 is imposed. -/
opaque fwdWord : List Word → Nat → Word
/-- Open: word `k` of the inverse transform of a vector (43_fft_port R118), before P3 of R119 is imposed. -/
opaque invWord : List Word → Nat → Word
/-- Free value: word `k` of the reference `FWD_L` for a vector that holds an infinity or a NaN, for which 00_scope R16
states no value (log entry 24). -/
opaque refFwdWord : List Word → Nat → Word
/-- Free value: likewise for the reference `INV_L` (00_scope R16; log entry 24). -/
opaque refInvWord : List Word → Nat → Word
/-- Free value: the content of a memory word that nothing has written since the reset of that number
(70_reset R141, 93 U2, U3; log entry 2). -/
opaque unwritten : MemSel → Nat → Nat → Word
/-- Free value: a debug read of an engine memory while busy (42_control R110, 93 U1), by draw number. -/
opaque busyDebugWord : Nat → Word
/-- Free value: whether the engine moves before the next host event (70_reset R151, 93 U8, U17), by draw number. -/
opaque engineMoves : Nat → Bool

/-- `B_MAX`: a power of two, at least 1; at most `2^31`, which the joint constraint of 00_scope R6 implies. -/
def bMax : Nat := 2 ^ (log2BMaxRaw % 32)

/-- `N_MAX >= 1` with `N_MAX + B_MAX - 1 < 2^32 - 1` (00_scope R6). -/
def nMax : Nat := nMaxRaw % (2 ^ 32 - 1 - bMax) + 1

/-- `SPEC_WORDS >= 2` (00_scope R6). -/
def specWords : Nat := specWordsRaw + 2

/-- The capacities of the block the model describes. -/
def caps : Caps := { bMax := bMax, nMax := nMax, specWords := specWords }

/-- `BASE`, aligned to 256 bytes (20_memory R49). -/
def base : Nat := baseRaw * 256

/-- `NAN_RESULT`: any quiet NaN, that is exponent bits and the top fraction bit set (00_scope R6, R12). -/
def nanResult : Word := nanRaw ||| 0x7FC00000#32

/-- The word is `+0.0` or `-0.0`. -/
def isZeroWord (w : Word) : Bool := w &&& 0x7FFFFFFF#32 == 0#32

/-- P3 of 43_fft_port R119: a vector whose every word is a zero is mapped to zeros, whose signs stay open. -/
def meetsP3 (f : List Word → Nat → Word) (v : List Word) : List Word :=
  (List.range v.length).map fun k => if v.all isZeroWord then f v k &&& 0x80000000#32 else f v k

/-- `FWD_L` for `L = v.length` (43_fft_port R118). -/
def fwd (v : List Word) : List Word := meetsP3 fwdWord v

/-- `INV_L` for `L = v.length` (43_fft_port R118). -/
def inv (v : List Word) : List Word := meetsP3 invWord v

end Config
end Sys2Proof
end

