-- ==== Sys2Proof/Machine/Binary32.lean ====
section
/-! DEFINITION. The binary32 primitives (00_scope R11, R12): IEEE 754 addition, subtraction and multiplication, each
rounded once to nearest, ties to even, subnormals kept. A finite value is an integer multiple of `2^-149`; results are
computed exactly as integers and rounded once. -/

namespace Sys2Proof.Machine

/-- Sign, bit 31 (20_memory R50). -/
def fpSign (w : Word) : Bool := w.msb

/-- Biased exponent, bits 30 to 23. -/
def fpExp (w : Word) : Nat := w.toNat / 2 ^ 23 % 2 ^ 8

/-- Fraction, bits 22 to 0. -/
def fpFrac (w : Word) : Nat := w.toNat % 2 ^ 23

/-- The word is a NaN. -/
def fpIsNaN (w : Word) : Bool := fpExp w == 255 && fpFrac w != 0

/-- The word is an infinity. -/
def fpIsInf (w : Word) : Bool := fpExp w == 255 && fpFrac w == 0

/-- The word is a finite number. -/
def fpIsFinite (w : Word) : Bool := fpExp w != 255

/-- The word is `+0.0` or `-0.0`. -/
def fpIsZero (w : Word) : Bool := fpExp w == 0 && fpFrac w == 0

/-- The magnitude of a finite word in units of `2^-149`: the fraction alone for a subnormal, else with the hidden
bit and scaled by the exponent. -/
def fpMagnitude (w : Word) : Nat :=
  if fpExp w = 0 then fpFrac w else (2 ^ 23 + fpFrac w) * 2 ^ (fpExp w - 1)

/-- The value of a finite word in units of `2^-149`. -/
def fpValue (w : Word) : Int := if fpSign w then -(fpMagnitude w : Int) else fpMagnitude w

/-- `m / 2^k` rounded to the nearest integer, ties to even. -/
def roundDiv (m k : Nat) : Nat :=
  let q := m / 2 ^ k
  let r := m % 2 ^ k
  if 2 ^ k < 2 * r ∨ (2 * r = 2 ^ k ∧ q % 2 = 1) then q + 1 else q

/-- The 31 low bits of the binary32 word nearest to `m * 2^-(149 + x)`. The last place kept is `2^(k - x)` units of
`2^-149`, chosen so that 24 bits remain, and never below one unit; exponent and fraction then add up without a case
for the hidden bit, for a carry out of the fraction or for a subnormal. What is too large is infinity. -/
def roundBits (m x : Nat) : Nat :=
  let k := max x (Nat.log2 m + 1 - 24)
  min ((k - x) * 2 ^ 23 + roundDiv m k) 0x7F800000

/-- The word with a sign and 31 low bits. -/
def fpPack (neg : Bool) (bits : Nat) : Word := BitVec.ofNat 32 ((if neg then 2 ^ 31 else 0) + bits)

/-- The infinity with a sign. -/
def fpInf (neg : Bool) : Word := fpPack neg 0x7F800000

/-- The zero with a sign. -/
def fpZero (neg : Bool) : Word := fpPack neg 0

/-- Addition of finite words: an exact zero sum of operands of different sign is `+0.0`. -/
def faddFinite (a b : Word) : Word :=
  let v := fpValue a + fpValue b
  if v = 0 then fpZero (fpSign a && fpSign b) else fpPack (decide (v < 0)) (roundBits v.natAbs 0)

/-- `fadd` (00_scope R11): a NaN operand and the sum of opposite infinities give `NAN_RESULT` (R12). -/
def fadd (a b : Word) : Word :=
  if fpIsNaN a || fpIsNaN b then Config.nanResult
  else if fpIsInf a then (if fpIsInf b && fpSign a != fpSign b then Config.nanResult else a)
  else if fpIsInf b then b
  else faddFinite a b

/-- The word with its sign bit flipped. -/
def fneg (w : Word) : Word := w ^^^ 0x80000000#32

/-- `fsub` (00_scope R11). -/
def fsub (a b : Word) : Word := fadd a (fneg b)

/-- `fmul` (00_scope R11): a NaN operand and infinity times zero give `NAN_RESULT` (R12). The product of two
magnitudes counts units of `2^-298`. -/
def fmul (a b : Word) : Word :=
  let neg := fpSign a != fpSign b
  if fpIsNaN a || fpIsNaN b then Config.nanResult
  else if fpIsInf a || fpIsInf b then (if fpIsZero a || fpIsZero b then Config.nanResult else fpInf neg)
  else fpPack neg (roundBits (fpMagnitude a * fpMagnitude b) 149)

/-- A natural number as a binary32 word; exact for the scale factor `K = L`, a power of two (00_scope R8). -/
def fpOfNat (m : Nat) : Word := fpPack false (roundBits (m * 2 ^ 149) 0)

end Sys2Proof.Machine
end

