-- ==== Sys2Proof/Machine/State.lean ====
section
/-! DEFINITION. The state of the block, its reset value, and the ways a step can stop. -/

namespace Sys2Proof.Machine

/-- `STATE` (10_state R42). -/
inductive EngState where
  | uninit | ready | initBusy | blockBusy
  deriving DecidableEq, Repr

/-- Result codes of `LAST_ERR` (60_exceptions R126); the reserved codes 6 and 7 are never produced and have no
constructor. -/
inductive Result where
  | ok | notInit | invalidArg | capacity | busy | illegalCmd
  deriving DecidableEq, Repr

/-- Cause codes of `ERR_CAUSE` (60_exceptions R128); the reserved codes 13 to 15 are never produced and have no
constructor. -/
inductive Cause where
  | none | bNonpos | bNotPow2 | bTooLarge | nNonpos | nTooLarge | specTooLarge | irCount
  | modeUnsupported | modeUnknown | irFull | reservedBits | opcode
  deriving DecidableEq, Repr

/-- `DIR` of an FFT transaction (43_fft_port R116). -/
inductive FftDir where
  | forward | inverse
  deriving DecidableEq, Repr

/-- One transaction of the FFT port: the request `(DIR, LOG2L, V)` and its response `W` (43_fft_port R116). -/
structure FftTransaction (α : Type) where
  dir : FftDir
  log2L : Nat
  request : List α
  response : List α
  deriving DecidableEq, Repr

/-- An internal memory (20_memory R55): the words written, by rising index; an index not listed has not been written
and its content is unspecified (70_reset R141). -/
abbrev Memory (α : Type) := List (Nat × α)

/-- The canonical form of a memory: indexes strictly rising. -/
abbrev Memory.wf {α : Type} (m : Memory α) : Prop := m.Pairwise fun p q => p.1 < q.1

/-- What the engine holds, over a type of samples (10_state R33, R36 to R39, R41), and the record of the FFT port.
The block's own samples are binary32 words; other sample types serve the exact-arithmetic law (41_streaming R100). -/
@[ext]
structure Engine (α : Type) where
  /-- `actB`, the active block length (R33). -/
  b : Nat
  /-- `actN`, the active impulse-response length (R33). -/
  n : Nat
  /-- `actNB`, the active number of blocks (R33). -/
  nb : Nat
  /-- `IIB`, the write cursor in the current block (R41). -/
  iib : Nat
  /-- `HCUR`, the history slot being filled (R41). -/
  hcur : Nat
  /-- `IRSPEC` (R37). -/
  irspec : Memory α
  /-- `HIST` (R36). -/
  hist : Memory α
  /-- `ACC` (R38). -/
  acc : Memory α
  /-- `SAVED` (R39). -/
  saved : Memory α
  /-- The FFT transactions issued since hardware reset, oldest first (43_fft_port R117, R122). The model's record of
  what the block puts on its port, not storage of the block (log entry 6). -/
  port : List (FftTransaction α)
  deriving DecidableEq, Repr

/-- An event on the host side (20_memory R48, 70_reset R140). -/
inductive HostEvent where
  /-- A read or write of the host port. -/
  | access (a : Access)
  /-- `rst` is asserted and released (70_reset R139). -/
  | hardwareReset
  /-- An access while another is in progress, or of a second host on this block (93 U11). -/
  | overlappingAccess
  /-- A response beat of an FFT transaction that a reset abandoned (43_fft_port R124, 93 U18). -/
  | strayFftBeat (w : Word)
  deriving DecidableEq, Repr

/-- Who may take the next atomic step (20_memory R57). -/
inductive Agent where
  | host | engine
  deriving DecidableEq, Repr

/-- The state of the machine: the block (10_state R19, R46) and, below the line, what the model adds to run it. -/
@[ext]
structure State extends Engine Word where
  /-- `STATE` (R42). -/
  phase : EngState
  /-- `DOUT_VALID` (R43). -/
  doutValid : Bool
  /-- `OVERRUN` (R43). -/
  overrun : Bool
  /-- `ERR_STICKY` (R43). -/
  errSticky : Bool
  /-- `LAST_ERR` (60_exceptions R126). -/
  lastErr : Result
  /-- `ERR_CAUSE` (60_exceptions R128). -/
  errCause : Cause
  /-- `CFG_B` (R24). -/
  cfgB : Word
  /-- `CFG_N` (R25). -/
  cfgN : Word
  /-- `IR_WPTR` (R26). -/
  irWptr : Word
  /-- `DOUT` (R30). -/
  dout : Word
  /-- `DBG_SEL` (R34). -/
  dbgSel : Word
  /-- `IRBUF` (R40). -/
  irbuf : Memory Word
  /-- MODEL: the read data the last host operation returned, none for a write (20_memory R48; log entry 5). -/
  rdata : Option Word
  /-- MODEL: the host events still to come, first first (log entry 4). -/
  pending : List HostEvent
  /-- MODEL: who moves next if the engine is busy (log entry 3). -/
  turn : Agent
  /-- MODEL: how many free values have been drawn (log entry 3). -/
  draws : Nat
  /-- MODEL: how many hardware resets there have been (log entry 2). -/
  resets : Nat
  deriving DecidableEq, Repr

/-- Why a step stops with a fault. Both are bus errors, which the block answers without any effect of its own; the
model treats them as a fault of the host (93 U10). -/
inductive Fault where
  /-- Raised by the host port on an access that is not 32 bits wide (20_memory R51). Safe: the model stops where the
  hardware answers an error and goes on unchanged. -/
  | busWidth
  /-- Raised by the host port on a 32-bit access at an unaligned offset (20_memory R52). Safe, as above. -/
  | busAlignment
  deriving DecidableEq, Repr

/-- Why a step is refused. -/
inductive Refusal where
  /-- Raised by an arm of `exec` whose instruction has no meaning yet. Safe. -/
  | notModelled (mnemonic : String)
  /-- Raised by the event of an overlapping access or a second host, outside the modelled set (93 U11). Safe. -/
  | overlappingAccess
  /-- Raised by the event of a stale FFT response beat, which the platform must prevent (93 U18). Safe. -/
  | strayFftBeat
  deriving DecidableEq, Repr

/-- The machine right after hardware reset (10_state R46, 70_reset R139), no host event to come. The memories list
nothing: their contents are unspecified (70_reset R141). -/
def State.reset : State where
  b := 0
  n := 0
  nb := 0
  iib := 0
  hcur := 0
  irspec := []
  hist := []
  acc := []
  saved := []
  port := []
  phase := .uninit
  doutValid := false
  overrun := false
  errSticky := false
  lastErr := .ok
  errCause := .none
  cfgB := 0x00002000#32
  cfgN := 0x00000000#32
  irWptr := 0x00000000#32
  dout := 0x00000000#32
  dbgSel := 0x00000000#32
  irbuf := []
  rdata := none
  pending := []
  turn := .host
  draws := 0
  resets := 0

end Sys2Proof.Machine
end

