-- ==== Sys2Proof/Machine/Ops.lean ====
section
/-! DEFINITION. The named operations over memory and registers, the host port, hardware reset, and the choice of who
moves next. The block has no traps (60_exceptions R125, R129), so there is no exception to take or to return from: an
error is a status update (Machine/Flags.lean). -/

namespace Sys2Proof.Machine

/-- The word at an index, if it has been written. -/
def Memory.read? {α : Type} : Memory α → Nat → Option α
  | [], _ => none
  | (j, v) :: m, i => if i = j then some v else Memory.read? m i

/-- `MemWrite(M, i, v)` (00_scope R10), keeping the indexes rising. -/
def Memory.write {α : Type} : Memory α → Nat → α → Memory α
  | [], i, v => [(i, v)]
  | (j, u) :: m, i, v =>
    if i < j then (i, v) :: (j, u) :: m
    else if i = j then (i, v) :: m
    else (j, u) :: Memory.write m i v

/-- The words of a list written at rising indexes from `base`. -/
def Memory.writeAll {α : Type} (m : Memory α) (base : Nat) : List α → Memory α
  | [] => m
  | v :: vs => Memory.writeAll (Memory.write m base v) (base + 1) vs

/-- `MemRead(M, i)` (00_scope R10) on a memory of the block: a word not written since reset holds an unspecified value,
drawn once per reset (10_state R40, 93 U2; log entry 2). -/
def blockWord (resets : Nat) (sel : MemSel) (m : Memory Word) (i : Nat) : Word :=
  (Memory.read? m i).getD (Config.unwritten sel resets i)

/-- The impulse-response sample `IRBUF[i]` (10_state R40). -/
def State.irSample (s : State) (i : Nat) : Word := blockWord s.resets .irbuf s.irbuf i

/-- "Busy" (10_state R42). -/
def State.busy (s : State) : Bool := s.phase == .initBusy || s.phase == .blockBusy

/-- The constant of the `ID` register (10_state R21). -/
def idWord : Word := 0x4F4C4131#32

/-- The sentinel of `TAIL_LEN` (10_state R29). -/
def tailSentinel : Word := 0xFFFFFFFF#32

/-- The host operation completes by returning read data (20_memory R48). -/
def State.respond (s : State) (w : Word) : State := { s with rdata := some w }

/-- The host operation is a write: it completes and returns no data (20_memory R48). -/
def State.written (s : State) : State := { s with rdata := none }

/-- The engine memories are discarded: their contents become unspecified (42_control R103). -/
def State.discardEngine (s : State) : State :=
  { s with irspec := [], hist := [], acc := [], saved := [] }

/-- Hardware reset (70_reset R139, R140): every register at its reset value, the engine step and any FFT transaction
abandoned, the memories unspecified anew. The host's events and the count of draws are not the block's. -/
def State.hardwareReset (s : State) : State :=
  { State.reset with pending := s.pending, draws := s.draws, resets := s.resets + 1 }

/-- Who moves next: the host, or, while the engine is busy, a free choice (70_reset R145, R151; log entry 3). -/
def State.drawTurn (s : State) : State :=
  if s.busy then { s with turn := if Config.engineMoves s.draws then .engine else .host, draws := s.draws + 1 }
  else { s with turn := .host }

/-- The host presents an access at a bus address: the block decodes its window and takes the offset (20_memory R49);
an address outside the window is not the block's. -/
def State.present (s : State) (addr width : Nat) (write : Bool) (data : Word) : State :=
  if Config.base ≤ addr ∧ addr < Config.base + 256 then
    { s with pending := s.pending ++ [.access { off := addr - Config.base, width := width, write := write, data := data }] }
  else s

/-- Byte lane `i` of a word, little-endian (20_memory R50). -/
def laneByte (w : Word) (i : Nat) : BitVec 8 := w.extractLsb' (8 * i) 8

/-- The word on four byte lanes (20_memory R50). -/
def ofLanes (b0 b1 b2 b3 : BitVec 8) : Word := b3 ++ b2 ++ b1 ++ b0

end Sys2Proof.Machine
end

