-- ==== Sys2Proof/Machine/Engine.lean ====
section
/-! DEFINITION. The engine's datapath: the initialization sequence (40_setup R83, R84), the block flush with the
spectral multiply-accumulate (41_streaming R92 to R96) and the sample path of a push (R88), over the arithmetic of a
`Datapath`. The block is the instance `blockDatapath`; the rules are read once for any sample type, so that the
exact-arithmetic law (R100) speaks of the very same engine. -/

namespace Sys2Proof.Machine

/-- What the engine computes with: the operations of 00_scope R11, the scale factor `K` for `L` (R8), the FFT
responses (43_fft_port R118) and the content of a word never written (70_reset R141). -/
structure Datapath (α : Type) where
  zero : α
  add : α → α → α
  sub : α → α → α
  mul : α → α → α
  scale : Nat → α
  fwd : List α → List α
  inv : List α → List α
  unwritten : MemSel → Nat → α

/-- The binary32 datapath of the block, after the given number of hardware resets. -/
def blockDatapath (resets : Nat) : Datapath Word where
  zero := plusZero
  add := fadd
  sub := fsub
  mul := fmul
  scale := fpOfNat
  fwd := Config.fwd
  inv := Config.inv
  unwritten := fun sel i => Config.unwritten sel resets i

/-- `MemRead(M, i)` (00_scope R10). -/
def Datapath.word {α : Type} (D : Datapath α) (sel : MemSel) (m : Memory α) (i : Nat) : α :=
  (Memory.read? m i).getD (D.unwritten sel i)

/-- `M[base .. base + len - 1]` in index order (00_scope R9). -/
def Datapath.words {α : Type} (D : Datapath α) (sel : MemSel) (m : Memory α) (base len : Nat) : List α :=
  (List.range len).map fun k => D.word sel m (base + k)

/-- `len` words `+0.0`. -/
def Datapath.zeros {α : Type} (D : Datapath α) (len : Nat) : List α := List.replicate len D.zero

/-- `DIR` of an FFT request, as the bit the port carries (43_fft_port R116). -/
def FftDir.code : FftDir → BitVec 1
  | .forward => 0#1
  | .inverse => 1#1

/-- The response of the FFT primitive (43_fft_port R118). -/
def Datapath.fftResponse {α : Type} (D : Datapath α) (dir : FftDir) (v : List α) : List α :=
  match dir with
  | .forward => D.fwd v
  | .inverse => D.inv v

/-- One FFT transaction in place (43_fft_port R116, R117): `len` words are sent in index order and the response is
written back over them. -/
def Datapath.transformInPlace {α : Type} (D : Datapath α) (dir : FftDir) (sel : MemSel) (m : Memory α) (base len : Nat) :
    Memory α × FftTransaction α :=
  let v := D.words sel m base len
  let w := D.fftResponse dir v
  (Memory.writeAll m base w, { dir := dir, log2L := Nat.log2 len, request := v, response := w })

/-- `L = 2*B` (00_scope R8). -/
def Engine.len {α : Type} (e : Engine α) : Nat := 2 * e.b

/-- The impulse-response block `hb_j` (40_setup R83), `ir` the staged samples. -/
def irBlock {α : Type} (D : Datapath α) (ir : Nat → α) (n b j : Nat) : List α :=
  (List.range (2 * b)).map fun k => if k < b ∧ j * b + k < n then ir (j * b + k) else D.zero

/-- Block `j` of the initialization sequence: stored into `IRSPEC[j]` and transformed there (40_setup R84). -/
def initBlock {α : Type} (D : Datapath α) (ir : Nat → α) (e : Engine α) (j : Nat) : Engine α :=
  let stored := Memory.writeAll e.irspec (j * e.len) (irBlock D ir e.n e.b j)
  let r := D.transformInPlace .forward .irspec stored (j * e.len) e.len
  { e with irspec := r.1, port := e.port ++ [r.2] }

/-- The engine initialization sequence (40_setup R84), but for `STATE`. -/
def initSequence {α : Type} (D : Datapath α) (ir : Nat → α) (e : Engine α) : Engine α :=
  let e := (List.range e.nb).foldl (initBlock D ir) e
  { e with
    hist := Memory.writeAll e.hist 0 (D.zeros (e.nb * e.len))
    acc := Memory.writeAll e.acc 0 (D.zeros e.len)
    saved := Memory.writeAll e.saved 0 (D.zeros e.b)
    iib := 0
    hcur := 0 }

/-- Step 1 of a push (41_streaming R88): the output sample `ACC[IIB]`. -/
def pushOutput {α : Type} (D : Datapath α) (e : Engine α) : α := D.word .acc e.acc e.iib

/-- Step 2 of a push (41_streaming R88): the sample goes into the current history slot. -/
def pushStore {α : Type} (e : Engine α) (x : α) : Engine α :=
  { e with hist := Memory.write e.hist (e.hcur * e.len + e.iib) x, iib := e.iib + 1 }

/-- The new word `k` of `ACC` in `PMAC` (41_streaming R94), from the old one, the spectra `H` and `X`, and `K`: bins 0
and `B` are real products, word `i` of an interior bin takes the real part, word `L - i` the imaginary part. -/
def pmacWord {α : Type} (D : Datapath α) (b : Nat) (h x : Nat → α) (old : α) (k : Nat) : α :=
  let l := 2 * b
  let scale := D.scale l
  if k = 0 ∨ k = b then D.add old (D.mul (D.mul (h k) (x k)) scale)
  else if k < b then
    D.add old (D.mul (D.sub (D.mul (h k) (x k)) (D.mul (h (l - k)) (x (l - k)))) scale)
  else
    D.add old (D.mul (D.add (D.mul (h (l - k)) (x k)) (D.mul (h k) (x (l - k)))) scale)

/-- `PMAC(j, s)` (41_streaming R94): each `ACC` word is written once, from its own old value. -/
def pmac {α : Type} (D : Datapath α) (e : Engine α) (j s : Nat) : Engine α :=
  let h := fun k => D.word .irspec e.irspec (j * e.len + k)
  let x := fun k => D.word .hist e.hist (s * e.len + k)
  let acc := (List.range e.len).map fun k => pmacWord D e.b h x (D.word .acc e.acc k) k
  { e with acc := Memory.writeAll e.acc 0 acc }

/-- `(HCUR - j) mod NB`, the slot of the block `j` rounds in the past (41_streaming R94; the non-negative remainder of
00_scope R9). -/
def pastSlot (hcur nb j : Nat) : Nat := (((hcur : Int) - (j : Int)) % (nb : Int)).toNat

/-- Flush step (a): the block is zero-padded and transformed in place (41_streaming R92, R93). -/
def flushTransform {α : Type} (D : Datapath α) (e : Engine α) : Engine α :=
  let padded := Memory.writeAll e.hist (e.hcur * e.len + e.b) (D.zeros e.b)
  let r := D.transformInPlace .forward .hist padded (e.hcur * e.len) e.len
  { e with hist := r.1, port := e.port ++ [r.2] }

/-- Flush steps (b) and (c): the residue is saved and the accumulator cleared (41_streaming R92). -/
def flushSave {α : Type} (D : Datapath α) (e : Engine α) : Engine α :=
  { e with
    saved := Memory.writeAll e.saved 0 (D.words .acc e.acc e.b e.b)
    acc := Memory.writeAll e.acc 0 (D.zeros e.len) }

/-- Flush step (d): `PMAC` for `j = 0, 1, ..., NB-1` in that order (41_streaming R92, R94). -/
def flushAccumulate {α : Type} (D : Datapath α) (e : Engine α) : Engine α :=
  (List.range e.nb).foldl (fun a j => pmac D a j (pastSlot e.hcur e.nb j)) e

/-- Flush step (e): one inverse transform of the accumulated spectrum (41_streaming R92). -/
def flushInverse {α : Type} (D : Datapath α) (e : Engine α) : Engine α :=
  let r := D.transformInPlace .inverse .acc e.acc 0 e.len
  { e with acc := r.1, port := e.port ++ [r.2] }

/-- Flush step (f): overlap-add, the inverse transform's word the first operand (41_streaming R95). -/
def flushOverlap {α : Type} (D : Datapath α) (e : Engine α) : Engine α :=
  let sums := (List.range e.b).map fun k => D.add (D.word .acc e.acc k) (D.word .saved e.saved k)
  { e with acc := Memory.writeAll e.acc 0 sums }

/-- Flush step (g), but for `STATE`: the history cursor advances and the block restarts (41_streaming R92). -/
def flushAdvance {α : Type} (e : Engine α) : Engine α :=
  { e with hcur := (e.hcur + 1) % e.nb, iib := 0 }

/-- The engine block flush (41_streaming R92), but for `STATE`. -/
def blockFlush {α : Type} (D : Datapath α) (e : Engine α) : Engine α :=
  flushAdvance (flushOverlap D (flushInverse D (flushAccumulate D (flushSave D (flushTransform D e)))))

/-- The engine step (20_memory R57): the initialization sequence in `INIT_BUSY`, the block flush in `BLOCK_BUSY`, each
one atomic step that ends in `READY` (10_state R42); none is enabled in the other states. -/
def State.engineStep (s : State) : State :=
  match s.phase with
  | .initBusy => { s with toEngine := initSequence (blockDatapath s.resets) s.irSample s.toEngine, phase := .ready }
  | .blockBusy => { s with toEngine := blockFlush (blockDatapath s.resets) s.toEngine, phase := .ready }
  | .uninit => s
  | .ready => s

end Sys2Proof.Machine
end

