-- ==== Sys2Proof/Machine/Operands.lean ====
section
/-! DEFINITION. Operand forms (30_encoding R68): signed configuration words, the debug select fields, and the decode
check of a command word. Samples move unchanged and need no form; `OPC`, `RSV` and `MODE` are taken apart in
Sys2Proof/Decode.lean. -/

namespace Sys2Proof.Machine

/-- `int32(w)` (00_scope R9). -/
def int32 (w : Word) : Int := w.toInt

/-- `MSEL`, bits 31:28 of the debug select word (10_state R34). -/
def msel (w : Word) : Nat := (w.extractLsb' 28 4).toNat

/-- `DIDX`, bits 27:0 of the debug select word (10_state R34). -/
def didx (w : Word) : Nat := (w.extractLsb' 0 28).toNat

/-- The reserved bits of a command other than `INIT` are all 0: `RSV = 0` and `MODE = 0` (30_encoding R69). -/
def plainCommandBitsClear (rsv : BitVec 20) (mode : BitVec 4) : Bool := rsv == 0#20 && mode == 0#4

/-- The reserved bits of `INIT` are all 0: `RSV = 0`, `MODE` being its operand (30_encoding R69). -/
def initBitsClear (rsv : BitVec 20) : Bool := rsv == 0#20

/-- A count or index as an unsigned 32-bit register value (10_state R31, R32). -/
def regOfNat (v : Nat) : Word := BitVec.ofNat 32 v

end Sys2Proof.Machine
end

