-- ==== Sys2Proof/Machine/Flags.lean ====
section
/-! DEFINITION. The status fields: codes, the status update of a reporting operation, the checks shared by reporting
operations, and the `STATUS` word. -/

namespace Sys2Proof.Machine

/-- The code of `STATE` (10_state R23). -/
def EngState.code : EngState → Nat
  | .uninit => 0
  | .ready => 1
  | .initBusy => 2
  | .blockBusy => 3

/-- The result codes (60_exceptions R126). -/
def Result.code : Result → Nat
  | .ok => 0
  | .notInit => 1
  | .invalidArg => 2
  | .capacity => 3
  | .busy => 4
  | .illegalCmd => 5

/-- The cause codes (60_exceptions R128). -/
def Cause.code : Cause → Nat
  | .none => 0
  | .bNonpos => 1
  | .bNotPow2 => 2
  | .bTooLarge => 3
  | .nNonpos => 4
  | .nTooLarge => 5
  | .specTooLarge => 6
  | .irCount => 7
  | .modeUnsupported => 8
  | .modeUnknown => 9
  | .irFull => 10
  | .reservedBits => 11
  | .opcode => 12

/-- `STATUS` (42_control R106). -/
def State.statusWord (s : State) : Word :=
  (BitVec.ofNat 32 s.errCause.code <<< 12) ||| (BitVec.ofNat 32 s.lastErr.code <<< 8)
    ||| (BitVec.ofNat 32 s.errSticky.toNat <<< 4) ||| (BitVec.ofNat 32 s.overrun.toNat <<< 3)
    ||| (BitVec.ofNat 32 s.doutValid.toNat <<< 2) ||| BitVec.ofNat 32 s.phase.code

/-- The status update of a reporting operation (60_exceptions R127). -/
def State.report (s : State) (c : Result) (x : Cause) : State :=
  { s with lastErr := c, errCause := x, errSticky := s.errSticky || c != .ok }

/-- `fail(code, cause)` (00_scope R10): the status update and nothing else. -/
def State.fail (s : State) (c : Result) (x : Cause) : State := s.report c x

/-- `ok()` (00_scope R10). -/
def State.succeed (s : State) : State := s.report .ok .none

/-- The second part of the decode check of a command (30_encoding R69): a set reserved bit fails before the command's
own rule runs. -/
def State.checkReserved (s : State) (clear : Bool) (body : State) : State :=
  if clear then body else s.fail .illegalCmd .reservedBits

/-- The busy check of `INIT`, `RESET`, `IR_BEGIN`, `IR_DATA` and `DIN` (60_exceptions R131). -/
def State.checkBusy (s : State) (body : State) : State :=
  if s.busy then s.fail .busy .none else body

end Sys2Proof.Machine
end

