-- ==== Sys2Proof/Machine/Control.lean ====
section
/-! DEFINITION. Commands but `INIT` and `IR_BEGIN`, status and configuration reads, the debug window, and the default
behaviour of unmapped offsets (42_control R102 to R114). -/

namespace Sys2Proof.Machine

/-- `RESET` after the decode and busy checks (42_control R103). -/
def State.resetCommand (s : State) : State :=
  State.succeed { s.discardEngine with phase := .uninit, b := 0, n := 0, nb := 0, iib := 0, hcur := 0 }

/-- `LIMIT(m)` of the engine memories (42_control R111); the other selects have no limit of this kind. -/
def State.debugLimit (s : State) (m : Nat) : Nat :=
  match m with
  | 0 => s.toEngine.len
  | 1 => s.b
  | 2 => s.nb * s.toEngine.len
  | 3 => s.nb * s.toEngine.len
  | _ => 0

/-- Word `i` of the engine memory selected by `m` (42_control R111). -/
def State.debugWord (s : State) (m i : Nat) : Word :=
  match m with
  | 0 => blockWord s.resets .acc s.acc i
  | 1 => blockWord s.resets .saved s.saved i
  | 2 => blockWord s.resets .hist s.hist i
  | 3 => blockWord s.resets .irspec s.irspec i
  | _ => 0x00000000#32

/-- The read data of `DBG_DATA` (42_control R110). While busy an engine memory reads as the free value of the current
draw (93 U1). -/
def State.debugData (s : State) : Word :=
  let m := msel s.dbgSel
  let i := didx s.dbgSel
  if m = 4 then (if i < Config.nMax then s.irSample i else 0x00000000#32)
  else if 4 < m then 0x00000000#32
  else if s.phase = .uninit then 0x00000000#32
  else if s.busy then Config.busyDebugWord s.draws
  else if s.debugLimit m ≤ i then 0x00000000#32
  else s.debugWord m i

/-- Whether a read of `DBG_DATA` draws a free value: an engine memory while busy (42_control R110, 93 U1). -/
def State.debugDraws (s : State) : Bool := decide (msel s.dbgSel < 4) && s.busy

/-- `NOP` (42_control R102). -/
def execNop (rsv : BitVec 20) (mode : BitVec 4) (s : State) : Host.Outcome State Fault Refusal :=
  let s := s.written
  .next (s.checkReserved (plainCommandBitsClear rsv mode) s.succeed)

/-- `RESET` (42_control R103). -/
def execReset (rsv : BitVec 20) (mode : BitVec 4) (s : State) : Host.Outcome State Fault Refusal :=
  let s := s.written
  .next (s.checkReserved (plainCommandBitsClear rsv mode) (s.checkBusy s.resetCommand))

/-- `CLR_ERR` (42_control R104). -/
def execClrErr (rsv : BitVec 20) (mode : BitVec 4) (s : State) : Host.Outcome State Fault Refusal :=
  let s := s.written
  .next (s.checkReserved (plainCommandBitsClear rsv mode)
    (State.succeed { s with errSticky := false, overrun := false }))

/-- Every other write of `CMD`: the decode check fails on the opcode, whatever the other bits (30_encoding R69). -/
def execCmdIllegal (_opc : BitVec 8) (_rsv : BitVec 20) (_mode : BitVec 4) (s : State) :
    Host.Outcome State Fault Refusal :=
  .next (s.written.fail .illegalCmd .opcode)

/-- `WR_DBG_SEL` (42_control R109). -/
def execWrDbgSel (data : Word) (s : State) : Host.Outcome State Fault Refusal :=
  .next { s.written with dbgSel := data }

/-- `RD_ID` (42_control R105). -/
def execRdId (s : State) : Host.Outcome State Fault Refusal := .next (s.respond idWord)

/-- `RD_STATUS` (42_control R106). -/
def execRdStatus (s : State) : Host.Outcome State Fault Refusal := .next (s.respond s.statusWord)

/-- `RD_NUM_BLOCKS` (42_control R107). -/
def execRdNumBlocks (s : State) : Host.Outcome State Fault Refusal := .next (s.respond (regOfNat s.nb))

/-- `RD_ACT_B` (42_control R107). -/
def execRdActB (s : State) : Host.Outcome State Fault Refusal := .next (s.respond (regOfNat s.b))

/-- `RD_ACT_N` (42_control R107). -/
def execRdActN (s : State) : Host.Outcome State Fault Refusal := .next (s.respond (regOfNat s.n))

/-- `RD_INDEX_IN_BLOCK` (42_control R108). -/
def execRdIndexInBlock (s : State) : Host.Outcome State Fault Refusal := .next (s.respond (regOfNat s.iib))

/-- `RD_HIST_CURSOR` (42_control R108). -/
def execRdHistCursor (s : State) : Host.Outcome State Fault Refusal := .next (s.respond (regOfNat s.hcur))

/-- `RD_DBG_SEL` (42_control R109). -/
def execRdDbgSel (s : State) : Host.Outcome State Fault Refusal := .next (s.respond s.dbgSel)

/-- `RD_DBG_DATA` (42_control R110): no side effect on the block; a draw is counted. -/
def execRdDbgData (s : State) : Host.Outcome State Fault Refusal :=
  .next { s.respond s.debugData with draws := if s.debugDraws then s.draws + 1 else s.draws }

/-- `RD_CMD`: a write-only register reads 0 (42_control R112). -/
def execRdCmd (s : State) : Host.Outcome State Fault Refusal := .next (s.respond 0x00000000#32)

/-- `RD_IR_DATA`: a write-only register reads 0 (42_control R112). -/
def execRdIrData (s : State) : Host.Outcome State Fault Refusal := .next (s.respond 0x00000000#32)

/-- `RD_DIN`: a write-only register reads 0 (42_control R112). -/
def execRdDin (s : State) : Host.Outcome State Fault Refusal := .next (s.respond 0x00000000#32)

/-- `RD_OTHER`: an unmapped offset reads 0 (42_control R112, 30_encoding R70). -/
def execRdOther (_off : BitVec 8) (s : State) : Host.Outcome State Fault Refusal := .next (s.respond 0x00000000#32)

/-- `OTHER`: a write of a read-only register or of an unmapped offset is ignored (42_control R113, 30_encoding R70). -/
def execOther (_off : BitVec 8) (_data : Word) (s : State) : Host.Outcome State Fault Refusal := .next s.written

end Sys2Proof.Machine
end

