-- ==== Sys2Proof/Machine/Setup.lean ====
section
/-! DEFINITION. Configuration, impulse-response load and initialization (40_setup R75 to R82, R86). -/

namespace Sys2Proof.Machine

/-- `ceil(n / b)` for `n >= 1` (00_scope R8). -/
def blockCount (n b : Nat) : Nat := (n - 1) / b + 1

/-- `INIT_CHECK` (40_setup R80): the first failing check in the rule's order, or `(OK, NONE)`. The capacities are an
argument (00_scope R6). -/
def initCheck (caps : Caps) (mode : BitVec 4) (cfgB cfgN irCount : Word) : Result × Cause :=
  let b := int32 cfgB
  let n := int32 cfgN
  if mode = 0#4 then (.invalidArg, .modeUnsupported)
  else if 2 ≤ mode.toNat then (.invalidArg, .modeUnknown)
  else if b ≤ 0 then (.invalidArg, .bNonpos)
  else if b.toNat &&& (b.toNat - 1) ≠ 0 then (.invalidArg, .bNotPow2)
  else if (caps.bMax : Int) < b then (.capacity, .bTooLarge)
  else if n ≤ 0 then (.invalidArg, .nNonpos)
  else if (caps.nMax : Int) < n then (.capacity, .nTooLarge)
  else if caps.specWords < blockCount n.toNat b.toNat * 2 * b.toNat then (.capacity, .specTooLarge)
  else if (irCount.toNat : Int) ≠ n then (.invalidArg, .irCount)
  else (.ok, .none)

/-- `ACCEPT_INIT()` (40_setup R81). -/
def State.acceptInit (s : State) : State :=
  { s with
    b := (int32 s.cfgB).toNat
    n := (int32 s.cfgN).toNat
    nb := blockCount (int32 s.cfgN).toNat (int32 s.cfgB).toNat
    iib := 0
    hcur := 0
    phase := .initBusy }

/-- `INIT` after the decode and busy checks (40_setup R79): a rejected one writes only the status fields (R82). -/
def State.tryInit (s : State) (mode : BitVec 4) : State :=
  match initCheck Config.caps mode s.cfgB s.cfgN s.irWptr with
  | (.ok, _) => s.acceptInit.succeed
  | (code, cause) => s.fail code cause

/-- `IR_DATA` after the busy check (40_setup R78). -/
def State.appendIr (s : State) (data : Word) : State :=
  if Config.nMax ≤ s.irWptr.toNat then s.fail .capacity .irFull
  else State.succeed
    { s with irbuf := Memory.write s.irbuf s.irWptr.toNat data, irWptr := s.irWptr + 1#32 }

/-- `WR_CFG_B` (40_setup R75). -/
def execWrCfgB (data : Word) (s : State) : Host.Outcome State Fault Refusal :=
  .next { s.written with cfgB := data }

/-- `WR_CFG_N` (40_setup R76). -/
def execWrCfgN (data : Word) (s : State) : Host.Outcome State Fault Refusal :=
  .next { s.written with cfgN := data }

/-- `IR_BEGIN` (40_setup R77). -/
def execIrBegin (rsv : BitVec 20) (mode : BitVec 4) (s : State) : Host.Outcome State Fault Refusal :=
  let s := s.written
  .next (s.checkReserved (plainCommandBitsClear rsv mode)
    (s.checkBusy (State.succeed { s with irWptr := 0x00000000#32 })))

/-- `WR_IR_DATA` (40_setup R78). -/
def execWrIrData (data : Word) (s : State) : Host.Outcome State Fault Refusal :=
  let s := s.written
  .next (s.checkBusy (s.appendIr data))

/-- `INIT` (40_setup R79). -/
def execInit (rsv : BitVec 20) (mode : BitVec 4) (s : State) : Host.Outcome State Fault Refusal :=
  let s := s.written
  .next (s.checkReserved (initBitsClear rsv) (s.checkBusy (s.tryInit mode)))

/-- `RD_CFG_B` (40_setup R86). -/
def execRdCfgB (s : State) : Host.Outcome State Fault Refusal := .next (s.respond s.cfgB)

/-- `RD_CFG_N` (40_setup R86). -/
def execRdCfgN (s : State) : Host.Outcome State Fault Refusal := .next (s.respond s.cfgN)

/-- `RD_IR_WPTR` (40_setup R86). -/
def execRdIrWptr (s : State) : Host.Outcome State Fault Refusal := .next (s.respond s.irWptr)

end Sys2Proof.Machine
end

