-- ==== Sys2Proof/Machine/Streaming.lean ====
section
/-! DEFINITION. Push, output and tail length (41_streaming R87 to R91, R97). -/

namespace Sys2Proof.Machine

/-- An accepted push (41_streaming R88): emit the output, store the sample, and start the block flush when the block is
full (R91). -/
def State.acceptPush (s : State) (data : Word) : State :=
  let e := pushStore s.toEngine data
  { s with
    toEngine := e
    overrun := s.overrun || s.doutValid
    dout := pushOutput (blockDatapath s.resets) s.toEngine
    doutValid := true
    phase := if e.iib = e.b then .blockBusy else s.phase }

/-- `DIN` after the busy check (41_streaming R88). -/
def State.tryPush (s : State) (data : Word) : State :=
  if s.phase = .uninit then s.fail .notInit .none else (s.acceptPush data).succeed

/-- `TAIL_LEN` (10_state R29, 41_streaming R97). -/
def State.tailLen (s : State) : Word :=
  if s.phase = .ready ∨ s.phase = .blockBusy then BitVec.ofInt 32 ((s.n : Int) - 1 + s.b) else tailSentinel

/-- `WR_DIN` (41_streaming R88). -/
def execWrDin (data : Word) (s : State) : Host.Outcome State Fault Refusal :=
  let s := s.written
  .next (s.checkBusy (s.tryPush data))

/-- `RD_DOUT` (41_streaming R90): the one read with a side effect (20_memory R53). -/
def execRdDout (s : State) : Host.Outcome State Fault Refusal :=
  .next { s.respond s.dout with doutValid := false }

/-- `RD_TAIL_LEN` (41_streaming R97). -/
def execRdTailLen (s : State) : Host.Outcome State Fault Refusal := .next (s.respond s.tailLen)

end Sys2Proof.Machine
end

