-- ==== Sys2Proof/Machine/Dispatch.lean ====
section
/-! DEFINITION. The meaning of each host operation, one arm per constructor. -/

namespace Sys2Proof.Machine

def exec (i : Instr) (s : State) : Host.Outcome State Fault Refusal :=
  match i with
  | .nop rsv mode => Sys2Proof.Machine.execNop rsv mode s
  | .init rsv mode => Sys2Proof.Machine.execInit rsv mode s
  | .reset rsv mode => Sys2Proof.Machine.execReset rsv mode s
  | .irBegin rsv mode => Sys2Proof.Machine.execIrBegin rsv mode s
  | .clrErr rsv mode => Sys2Proof.Machine.execClrErr rsv mode s
  | .cmdIllegal opc rsv mode => Sys2Proof.Machine.execCmdIllegal opc rsv mode s
  | .wrCfgB data => Sys2Proof.Machine.execWrCfgB data s
  | .wrCfgN data => Sys2Proof.Machine.execWrCfgN data s
  | .wrIrData data => Sys2Proof.Machine.execWrIrData data s
  | .wrDin data => Sys2Proof.Machine.execWrDin data s
  | .wrDbgSel data => Sys2Proof.Machine.execWrDbgSel data s
  | .rdId => Sys2Proof.Machine.execRdId s
  | .rdStatus => Sys2Proof.Machine.execRdStatus s
  | .rdCfgB => Sys2Proof.Machine.execRdCfgB s
  | .rdCfgN => Sys2Proof.Machine.execRdCfgN s
  | .rdIrWptr => Sys2Proof.Machine.execRdIrWptr s
  | .rdDout => Sys2Proof.Machine.execRdDout s
  | .rdTailLen => Sys2Proof.Machine.execRdTailLen s
  | .rdNumBlocks => Sys2Proof.Machine.execRdNumBlocks s
  | .rdActB => Sys2Proof.Machine.execRdActB s
  | .rdActN => Sys2Proof.Machine.execRdActN s
  | .rdIndexInBlock => Sys2Proof.Machine.execRdIndexInBlock s
  | .rdHistCursor => Sys2Proof.Machine.execRdHistCursor s
  | .rdDbgSel => Sys2Proof.Machine.execRdDbgSel s
  | .rdDbgData => Sys2Proof.Machine.execRdDbgData s
  | .rdCmd => Sys2Proof.Machine.execRdCmd s
  | .rdIrData => Sys2Proof.Machine.execRdIrData s
  | .rdDin => Sys2Proof.Machine.execRdDin s
  | .rdOther off => Sys2Proof.Machine.execRdOther off s
  | .other off data => Sys2Proof.Machine.execOther off data s

end Sys2Proof.Machine
end

