-- ==== Sys2Proof/Machine/Port.lean ====
section
/-! DEFINITION. The host port: what one host event does (20_memory R48 to R52, 70_reset R139), and one atomic step of
the whole machine (20_memory R57). -/

namespace Sys2Proof.Machine

/-- One access of the host port: its key is decoded and executed; an access outside the window is not the block's and
changes nothing (20_memory R49); a wrong width or alignment is a bus error, a fault of the host (R51, R52). -/
def hostAccess (a : Access) (s : State) : Host.Outcome State Fault Refusal :=
  match decodeAccess a with
  | .ok i => exec i s
  | .error .outsideWindow => .next s
  | .error .width => .fault .busWidth
  | .error .alignment => .fault .busAlignment

/-- What one host event does. -/
def hostEvent (ev : HostEvent) (s : State) : Host.Outcome State Fault Refusal :=
  match ev with
  | .access a => hostAccess a s
  | .hardwareReset => .next s.hardwareReset
  | .overlappingAccess => .refused .overlappingAccess
  | .strayFftBeat _ => .refused .strayFftBeat

/-- The host's next event; with none to come the block waits and no state is lost (60_exceptions R138). -/
def hostStep (s : State) : Host.Outcome State Fault Refusal :=
  match s.pending with
  | [] => .next s
  | ev :: rest => hostEvent ev { s with pending := rest }

/-- After a step it is settled who moves next (log entry 3). -/
def thenDrawTurn (o : Host.Outcome State Fault Refusal) : Host.Outcome State Fault Refusal :=
  match o with
  | .next t => .next t.drawTurn
  | .fault f => .fault f
  | .refused r => .refused r

/-- One atomic step (20_memory R57): an engine step if the engine is busy and it is its turn, else the host's next
event. -/
def machineStep (s : State) : Host.Outcome State Fault Refusal :=
  if s.busy ∧ s.turn = .engine then .next s.engineStep.drawTurn else thenDrawTurn (hostStep s)

/-- The access of a table word placed as the host's next event, and the turn given to the host, so that the next step
runs it (log entry 4). -/
def placeKey (s : State) (k : Key) : State :=
  { s with pending := .access (accessOfKey k) :: s.pending, turn := .host }

end Sys2Proof.Machine
end

