-- ==== Sys2Proof/Machine/Step.lean ====
section
/-! DEFINITION. One step of the machine, and placing an instruction as the next to run. -/

namespace Sys2Proof.Machine

/-- One atomic step (20_memory R57). -/
def step (s : State) : Host.Outcome State Fault Refusal := machineStep s

/-- The state with the instruction of a table word as the host's next operation: the block fetches nothing
(20_memory R61), an operation runs when the host presents it (log entry 4). -/
def State.withFetchWord (s : State) (_nbits w : Nat) : State := placeKey s (BitVec.ofNat 41 w)

end Sys2Proof.Machine
end

