-- ==== Sys2Proof/Machine/Procedures.lean ====
section
/-! DEFINITION. The host's procedures and pseudo-operations (30_encoding R74, 41_streaming R98, R99): sequences of host
operations, not operations of the block. `POLL` takes weak fairness as met (70_reset R151; log entry 8): it ends after
the engine step. -/

namespace Sys2Proof.Machine

/-- The state after one host operation. Every operation completes, so the second case does not arise. -/
def issue (i : Instr) (s : State) : State :=
  match exec i s with
  | .next t => t
  | .fault _ => s
  | .refused _ => s

/-- `POLL` (30_encoding R74): read `STATUS` until it shows a state that is not busy. -/
def poll (s : State) : State := issue .rdStatus (if s.busy then s.engineStep else s)

/-- `LOADIR h[0..N-1]` (30_encoding R74). -/
def loadIr (h : List Word) (s : State) : State :=
  h.foldl (fun t x => issue (.wrIrData x) t) (issue (.irBegin 0#20 0#4) (poll s))

/-- `INITB b, n, h` (30_encoding R74): the result the call reports, read after `INIT`, and the state after the last
`POLL`. -/
def initB (b n : Word) (h : List Word) (s : State) : Result × State :=
  let configured := issue (.wrCfgN n) (issue (.wrCfgB b) s)
  let started := issue .rdStatus (issue (.init 0#20 1#4) (loadIr h configured))
  (started.lastErr, poll started)

/-- `PUSH x -> y` (30_encoding R74): the output word and the state after. -/
def pushSample (x : Word) (s : State) : Word × State :=
  let t := issue .rdDout (issue .rdStatus (issue (.wrDin x) (poll s)))
  (t.rdata.getD plusZero, t)

/-- The loop of `PROCESS` (41_streaming R98). -/
def pushSamples : List Word → State → List Word × State
  | [], s => ([], s)
  | x :: xs, s =>
    let r := pushSample x s
    let rest := pushSamples xs r.2
    (r.1 :: rest.1, rest.2)

/-- `PROCESS x[0..n-1] -> y[0..n-1]` (41_streaming R98, R89): a negative length is reported by the host and no operation
is issued; an uninitialized block is reported after a read of `STATUS`. -/
def process (n : Int) (x : Nat → Word) (s : State) : Result × List Word × State :=
  if n < 0 then (.invalidArg, [], s)
  else
    let s := issue .rdStatus s
    if s.phase = .uninit then (.notInit, [], s)
    else
      let r := pushSamples ((List.range n.toNat).map x) s
      (.ok, r.1, r.2)

/-- `TAIL -> t` (30_encoding R74). -/
def tail (s : State) : Word × State :=
  let t := issue .rdTailLen s
  (t.rdata.getD plusZero, t)

/-- `FLUSH -> y[0..T-1]` (41_streaming R99). -/
def flushTail (s : State) : Result × List Word × State :=
  let r := tail s
  if r.1 = tailSentinel then (.notInit, [], r.2) else process r.1.toNat (fun _ => plusZero) r.2

end Sys2Proof.Machine
end

