-- ==== Sys2Proof/Machine/Reference.lean ====
section
/-! DEFINITION. The reference mathematics (00_scope R14 to R17), the contract of the FFT primitive in exact arithmetic
(43_fft_port R119), and the sequence of pushes the exact output law speaks of (41_streaming R100). Nothing here is part
of a step. -/

namespace Sys2Proof.Machine

/-- `linconv(h, x)[t]` (00_scope R15); indices outside a sequence read as 0. -/
def linconv {R : Type} [CommRing R] (h x : List R) (t : Nat) : R :=
  ((List.range h.length).map fun j => if j ≤ t then h.getD j 0 * x.getD (t - j) 0 else 0).sum

/-- `circconv_L(a, b)` (00_scope R15). -/
def circconv {R : Type} [CommRing R] (l : Nat) (a b : List R) : List R :=
  (List.range l).map fun t =>
    ((List.range l).map fun m => a.getD m 0 * b.getD (((t : Int) - (m : Int)) % (l : Int)).toNat 0).sum

/-- `pmul_L(P, Q)`, the bin-wise complex product of two packed spectra (00_scope R14, R15). -/
def pmul {R : Type} [CommRing R] (l : Nat) (p q : List R) : List R :=
  (List.range l).map fun k =>
    let at' := fun (v : List R) i => v.getD i 0
    if k = 0 ∨ 2 * k = l then at' p k * at' q k
    else if 2 * k < l then at' p k * at' q k - at' p (l - k) * at' q (l - k)
    else at' p (l - k) * at' q k + at' p k * at' q (l - k)

/-- The datapath of exact arithmetic (41_streaming R100). -/
def exactDatapath {R : Type} [CommRing R] (fwd inv : List R → List R) (unwritten : MemSel → Nat → R) : Datapath R where
  zero := 0
  add := fun a b => a + b
  sub := fun a b => a - b
  mul := fun a b => a * b
  scale := fun l => (l : R)
  fwd := fwd
  inv := inv
  unwritten := unwritten

/-- A map of vectors of length `l` to vectors of length `l`. -/
def KeepsLength {R : Type} (l : Nat) (f : List R → List R) : Prop := ∀ v : List R, v.length = l → (f v).length = l

/-- P1 of 43_fft_port R119: the map is linear on vectors of length `l`. -/
def LinearOn {R : Type} [CommRing R] (l : Nat) (f : List R → List R) : Prop :=
  (∀ u v : List R, u.length = l → v.length = l →
    f (List.zipWith (fun a b => a + b) u v) = List.zipWith (fun a b => a + b) (f u) (f v)) ∧
  ∀ (c : R) (v : List R), v.length = l → f (v.map fun a => c * a) = (f v).map fun a => c * a

/-- P1 and P2 of 43_fft_port R119 at length `l` in exact arithmetic, with `K = L`, and that the maps keep the length
(R118). The exact output law needs no more than this of the contract. -/
structure ConvolvesExactly {R : Type} [CommRing R] (l : Nat) (fwd inv : List R → List R) : Prop where
  fwdLength : KeepsLength l fwd
  invLength : KeepsLength l inv
  fwdLinear : LinearOn l fwd
  invLinear : LinearOn l inv
  convolution : ∀ a b : List R, a.length = l → b.length = l →
    inv ((pmul l (fwd a) (fwd b)).map fun c => (l : R) * c) = circconv l a b

/-- The packed form of a spectrum (00_scope R14): real parts up to bin `L/2`, then the imaginary parts mirrored. -/
noncomputable def packSpectrum (l : Nat) (X : Nat → ℂ) : List ℝ :=
  (List.range l).map fun k => if 2 * k ≤ l then (X k).re else (X (l - k)).im

/-- Bin `k` of the spectrum of a real vector, unscaled (00_scope R16). -/
noncomputable def dftBin (v : List ℝ) (k : Nat) : ℂ :=
  ∑ t ∈ Finset.range v.length,
    ((v.getD t 0 : ℝ) : ℂ) * Complex.exp (-(2 * Real.pi * Complex.I * k * t) / v.length)

/-- P4 of 43_fft_port R119: the map gives the packed spectrum of its real input, up to a fixed scale factor of its own
(log entry 25). -/
def GivesPackedSpectrum (l : Nat) (fwd : List ℝ → List ℝ) : Prop :=
  ∃ scale : ℝ, scale ≠ 0 ∧ ∀ v : List ℝ, v.length = l → fwd v = packSpectrum l fun k => (scale : ℂ) * dftBin v k

/-- P3 of 43_fft_port R119, which speaks of words: zeros are mapped to zeros, of either sign. -/
def ZerosToZeros (f : List Word → List Word) : Prop :=
  ∀ v : List Word, (∀ w ∈ v, fpIsZero w = true) → ∀ w ∈ f v, fpIsZero w = true

/-- The contract of the FFT primitive on its real-number idealisations, at length `l` (43_fft_port R119): P1, P2 and
P4. -/
structure ExactContract (l : Nat) (fwd inv : List ℝ → List ℝ) : Prop extends ConvolvesExactly l fwd inv where
  layout : GivesPackedSpectrum l fwd

/-- One accepted push and the block flush it may start (41_streaming R88, R91, R92): the output and the engine after. -/
def pushAndFlush {α : Type} (D : Datapath α) (e : Engine α) (x : α) : α × Engine α :=
  let f := pushStore e x
  (pushOutput D e, if f.iib = f.b then blockFlush D f else f)

/-- The outputs of a sequence of pushes and the engine after it (41_streaming R87). -/
def pushAll {α : Type} (D : Datapath α) : Engine α → List α → List α × Engine α
  | e, [] => ([], e)
  | e, x :: xs =>
    let r := pushAndFlush D e x
    let rest := pushAll D r.2 xs
    (r.1 :: rest.1, rest.2)

/-- `FWD_2`, `INV_2`, `FWD_4` and `INV_4` of the reference FFT in closed form (00_scope R17), over a field. -/
def refFwd2 {F : Type} [Field F] : List F → List F
  | [x0, x1] => [(x0 + x1) / 2, (x0 - x1) / 2]
  | v => v

/-- `INV_2` (00_scope R17). -/
def refInv2 {F : Type} [Field F] : List F → List F
  | [c0, c1] => [c0 + c1, c0 - c1]
  | v => v

/-- `FWD_4` (00_scope R17). -/
def refFwd4 {F : Type} [Field F] : List F → List F
  | [x0, x1, x2, x3] => [(x0 + x1 + x2 + x3) / 4, (x0 - x2) / 4, (x0 - x1 + x2 - x3) / 4, (x3 - x1) / 4]
  | v => v

/-- `INV_4` (00_scope R17). -/
def refInv4 {F : Type} [Field F] : List F → List F
  | [c0, c1, c2, c3] => [c0 + 2 * c1 + c2, c0 - c2 - 2 * c3, c0 - 2 * c1 + c2, c0 - c2 + 2 * c3]
  | v => v

/-- `X[k]` of the reference FFT (00_scope R16), before the rounding of its words. -/
noncomputable def refSpectrum (v : List ℝ) (k : Nat) : ℂ := (1 / (v.length : ℂ)) * dftBin v k

/-- `FWD_L` of the reference FFT in exact arithmetic (00_scope R16), packed as R14 says. -/
noncomputable def refForward (v : List ℝ) : List ℝ := packSpectrum v.length (refSpectrum v)

/-- The bin `k` of the conjugate-symmetric spectrum that a packed vector stands for (00_scope R14, R16). -/
noncomputable def packedBin (c : List ℝ) (k : Nat) : ℂ :=
  let l := c.length
  if k = 0 ∨ 2 * k = l then ((c.getD k 0 : ℝ) : ℂ)
  else if 2 * k < l then ⟨c.getD k 0, c.getD (l - k) 0⟩
  else ⟨c.getD (l - k) 0, -c.getD k 0⟩

/-- `INV_L` of the reference FFT in exact arithmetic (00_scope R16). -/
noncomputable def refInverse (c : List ℝ) : List ℝ :=
  (List.range c.length).map fun t =>
    (∑ k ∈ Finset.range c.length,
      packedBin c k * Complex.exp ((2 * Real.pi * Complex.I * k * t) / c.length)).re

/-- The real value of a finite word (20_memory R50). -/
noncomputable def fpReal (w : Word) : ℝ := fpValue w / 2 ^ 149

/-- A non-negative real rounded to the nearest natural number, ties to even. -/
noncomputable def roundHalfEven (u : ℝ) : Nat :=
  let q := ⌊u⌋₊
  if 1 / 2 < u - q ∨ (u - q = 1 / 2 ∧ q % 2 = 1) then q + 1 else q

/-- A real rounded once to binary32, to nearest, ties to even (00_scope R11, R16); an exact zero is `+0.0`. The bits are
put together as `roundBits` does for integers. -/
noncomputable def roundReal (r : ℝ) : Word :=
  let u := |r| * 2 ^ 149
  let k := Nat.log2 ⌊u⌋₊ + 1 - 24
  fpPack (decide (r < 0)) (min (k * 2 ^ 23 + roundHalfEven (u / 2 ^ k)) 0x7F800000)

/-- A transform of real vectors as one of words: each output word is the exact value rounded once (00_scope R16). A
vector that holds an infinity or a NaN has no exact value, and its words are free (log entry 24). -/
noncomputable def roundedTransform (f : List ℝ → List ℝ) (free : List Word → Nat → Word) (v : List Word) : List Word :=
  if v.all fpIsFinite then (f (v.map fpReal)).map roundReal else (List.range v.length).map (free v)

/-- `FWD_L` of the reference FFT on words (00_scope R16). -/
noncomputable def refForwardWords : List Word → List Word := roundedTransform refForward Config.refFwdWord

/-- `INV_L` of the reference FFT on words (00_scope R16). -/
noncomputable def refInverseWords : List Word → List Word := roundedTransform refInverse Config.refInvWord

end Sys2Proof.Machine
end

