-- ==== Sys2Proof/Safety.lean ====
section
/-! DEFINITION. What every step keeps: the invariants of the state (10_state R33, R41, R43, R44, 60_exceptions R128,
70_reset R141), in the terms the claims use. -/

namespace Sys2Proof.Machine

/-- A power of two (00_scope R7). -/
def IsPow2 (b : Nat) : Prop := ∃ k, b = 2 ^ k

/-- Every word below `len` has been written. -/
def Memory.WrittenTo {α : Type} (m : Memory α) (len : Nat) : Prop := ∀ i, i < len → (Memory.read? m i).isSome = true

/-- Every word listed lies below the capacity (20_memory R55). -/
def Memory.Below {α : Type} (m : Memory α) (cap : Nat) : Prop := ∀ p ∈ m, p.1 < cap

/-- The five memories have their canonical form. -/
def State.MemoriesCanonical (s : State) : Prop :=
  Memory.wf s.irbuf ∧ Memory.wf s.irspec ∧ Memory.wf s.hist ∧ Memory.wf s.acc ∧ Memory.wf s.saved

/-- The five memories lie within their capacities (20_memory R55). -/
def State.MemoriesBounded (s : State) : Prop :=
  Memory.Below s.irbuf Config.nMax ∧ Memory.Below s.irspec Config.specWords ∧ Memory.Below s.hist Config.specWords ∧
    Memory.Below s.acc (2 * Config.bMax) ∧ Memory.Below s.saved Config.bMax

/-- The active configuration (10_state R33): zero in `UNINIT`, else within its bounds. -/
def State.ConfigOk (s : State) : Prop :=
  (s.phase = .uninit → s.b = 0 ∧ s.n = 0 ∧ s.nb = 0) ∧
  (s.phase ≠ .uninit →
    IsPow2 s.b ∧ 1 ≤ s.b ∧ s.b ≤ Config.bMax ∧ 1 ≤ s.n ∧ s.n ≤ Config.nMax ∧
      s.nb = blockCount s.n s.b ∧ s.nb * 2 * s.b ≤ Config.specWords)

/-- The cursors (10_state R41). -/
def State.CursorsOk (s : State) : Prop :=
  (s.phase = .uninit ∨ s.phase = .initBusy → s.iib = 0 ∧ s.hcur = 0) ∧
  (s.phase = .ready → s.iib < s.b ∧ s.hcur < s.nb) ∧
  (s.phase = .blockBusy → s.iib = s.b ∧ s.hcur < s.nb)

/-- The engine memories are written wherever an output can come from them (10_state R44, 70_reset R141). -/
def Engine.Written {α : Type} (e : Engine α) : Prop :=
  Memory.WrittenTo e.irspec (e.nb * e.len) ∧ Memory.WrittenTo e.hist (e.nb * e.len) ∧
    Memory.WrittenTo e.acc e.len ∧ Memory.WrittenTo e.saved e.b

/-- No unspecified word can reach an output (70_reset R141): the staged samples are written, `INIT_BUSY` has all `N`
of them, and a running engine's memories are written. -/
def State.OutputsSpecified (s : State) : Prop :=
  s.irWptr.toNat ≤ Config.nMax ∧ Memory.WrittenTo s.irbuf s.irWptr.toNat ∧
    (s.phase = .initBusy → s.irWptr.toNat = s.n) ∧
    (s.phase = .ready ∨ s.phase = .blockBusy → s.toEngine.Written)

/-- The causes a result code goes with (60_exceptions R126, R128). -/
def causeFits : Result → Cause → Bool
  | .ok, c => c == .none
  | .notInit, c => c == .none
  | .busy, c => c == .none
  | .invalidArg, c =>
    c == .bNonpos || c == .bNotPow2 || c == .nNonpos || c == .irCount || c == .modeUnsupported || c == .modeUnknown
  | .capacity, c => c == .bTooLarge || c == .nTooLarge || c == .specTooLarge || c == .irFull
  | .illegalCmd, c => c == .reservedBits || c == .opcode

/-- The status fields agree: the cause goes with the result (60_exceptions R128), and a result that is not `OK` has
left `ERR_STICKY` set (10_state R43, 60_exceptions R127). -/
def State.StatusOk (s : State) : Prop :=
  causeFits s.lastErr s.errCause = true ∧ (s.lastErr ≠ .ok → s.errSticky = true)

/-- The invariant of the machine. -/
structure State.Inv (s : State) : Prop where
  canonical : s.MemoriesCanonical
  bounded : s.MemoriesBounded
  config : s.ConfigOk
  cursors : s.CursorsOk
  outputs : s.OutputsSpecified
  status : s.StatusOk

/-- The reporting operations (60_exceptions R130): every write to `CMD`, `IR_DATA` and `DIN`. -/
def Reporting : Instr → Bool
  | .nop _ _ | .init _ _ | .reset _ _ | .irBegin _ _ | .clrErr _ _ | .cmdIllegal _ _ _ | .wrIrData _ | .wrDin _ => true
  | .wrCfgB _ | .wrCfgN _ | .wrDbgSel _ | .other _ _ => false
  | .rdId | .rdStatus | .rdCfgB | .rdCfgN | .rdIrWptr | .rdDout | .rdTailLen | .rdNumBlocks | .rdActB | .rdActN => false
  | .rdIndexInBlock | .rdHistCursor | .rdDbgSel | .rdDbgData | .rdCmd | .rdIrData | .rdDin | .rdOther _ => false

/-- The operations that are rejected while busy (42_control R114): `INIT`, `RESET`, `IR_BEGIN`, `IR_DATA`, `DIN`. -/
def RejectedWhileBusy : Instr → Bool
  | .init rsv _ => initBitsClear rsv
  | .reset rsv mode | .irBegin rsv mode => plainCommandBitsClear rsv mode
  | .wrIrData _ | .wrDin _ => true
  | .nop _ _ | .clrErr _ _ | .cmdIllegal _ _ _ | .wrCfgB _ | .wrCfgN _ | .wrDbgSel _ | .other _ _ => false
  | .rdId | .rdStatus | .rdCfgB | .rdCfgN | .rdIrWptr | .rdDout | .rdTailLen | .rdNumBlocks | .rdActB | .rdActN => false
  | .rdIndexInBlock | .rdHistCursor | .rdDbgSel | .rdDbgData | .rdCmd | .rdIrData | .rdDin | .rdOther _ => false

/-- A write to `DIN`. -/
def IsPush : Instr → Bool
  | .wrDin _ => true
  | _ => false

/-- A `CLR_ERR` command. -/
def IsClrErr : Instr → Bool
  | .clrErr _ _ => true
  | _ => false

/-- A register read (20_memory R53). -/
def IsRead : Instr → Bool
  | .rdId | .rdStatus | .rdCfgB | .rdCfgN | .rdIrWptr | .rdDout | .rdTailLen | .rdNumBlocks | .rdActB | .rdActN => true
  | .rdIndexInBlock | .rdHistCursor | .rdDbgSel | .rdDbgData | .rdCmd | .rdIrData | .rdDin | .rdOther _ => true
  | _ => false

/-- The distance, in units of `2^-298`, between the value of a finite word and a value in those units. -/
def fpDistance (w : Word) (v : Int) : Nat := (fpValue w * 2 ^ 149 - v).natAbs

/-- `r` is the value `v`, in units of `2^-298`, rounded to nearest, ties to even (00_scope R11, IEEE 754 binary32): from
`2^128 - 2^103` on it is infinity; below, it is a finite word such that no finite word is nearer, and an even one where
another value is as near. -/
def RoundsTo (v : Int) (r : Word) : Prop :=
  ((2 ^ 25 - 1) * 2 ^ (103 + 298) ≤ v.natAbs → fpIsInf r = true) ∧
  (v.natAbs < (2 ^ 25 - 1) * 2 ^ (103 + 298) →
    fpIsFinite r = true ∧
    ∀ w : Word, fpIsFinite w = true →
      fpDistance r v ≤ fpDistance w v ∧
      (fpDistance r v = fpDistance w v → fpValue w ≠ fpValue r → fpFrac r % 2 = 0))

/-- `w` is the real `r` rounded once to binary32, to nearest, ties to even, with its sign; an exact zero is `+0.0`
(00_scope R11, R16). From `2^128 - 2^103` on it is infinity. -/
def RoundsRealTo (r : ℝ) (w : Word) : Prop :=
  (fpSign w = true ↔ r < 0) ∧
  (2 ^ 128 - 2 ^ 103 ≤ |r| → fpIsInf w = true) ∧
  (|r| < 2 ^ 128 - 2 ^ 103 →
    fpIsFinite w = true ∧
    ∀ w' : Word, fpIsFinite w' = true →
      |fpReal w - r| ≤ |fpReal w' - r| ∧
      (|fpReal w - r| = |fpReal w' - r| → fpValue w' ≠ fpValue w → fpFrac w % 2 = 0))

end Sys2Proof.Machine
end

