-- ==== Sys2Proof/Certificates/Slice0/Obligations.lean ====
section
/-! DEFINITION. The statements about the block, from the numbered rules of spec/. Each docstring names the rule. -/

open Sys2Proof Sys2Proof.Machine

/-! ## Encoding -/

/-- 30_encoding R63 to R69: no bit of an operation is lost between its key and its decoding. -/
def Obligations.DecodeInvertsEncode : Prop := ∀ i : Instr, i.wellFormed = true → decodeKey (encodeKey i) = i

/-- 30_encoding R64: for every one of the 2^41 keys, the first row of the opcode table that takes the key is the
operation the decoder gives. -/
def Obligations.DecodeIsFirstTableRow : Prop := ∀ k : Key, tableDecode k = some (decodeKey k)

/-- 30_encoding R63: what the host port can present decodes to a well-formed operation, and encoding it gives the same
key back. -/
def Obligations.PresentedKeysRoundTrip : Prop :=
  ∀ (a : Access) (k : Key), accessKey a = .ok k → (decodeKey k).wellFormed = true ∧ encodeKey (decodeKey k) = k

/-- Words written out bit by bit from 30_encoding R63 to R66 and 10_state R20. -/
def Obligations.SampleKeysDecodeAsTheSpecSays : Prop :=
  decodeKey 0b1_00100000_00111111100000000000000000000000#41 = .wrDin 0x3F800000#32 ∧
  decodeKey 0b1_00000100_00000001_00000000000000000000_0001#41 = .init 0#20 1#4 ∧
  decodeKey 0b1_00000100_00000101_00000000000000000000_0000#41 = .cmdIllegal 0x05#8 0#20 0#4 ∧
  decodeKey 0b0_00100100_00000000000000000000000000000000#41 = .rdDout ∧
  decodeKey 0b1_00001100_00010010001101000101011001111000#41 = .other 0x0C#8 0x12345678#32

/-! ## The host port and the step -/

/-- 20_memory R48, R57: when it is the host's turn and its next access has a key, the step is `exec` of the decoded
operation, and then it is settled who moves next. -/
def Obligations.StepRunsTheDecodedOperation : Prop :=
  ∀ (s : State) (a : Access) (rest : List HostEvent) (i : Instr),
    s.pending = .access a :: rest → ¬(s.busy = true ∧ s.turn = .engine) → decodeAccess a = .ok i →
    step s = match exec i { s with pending := rest } with
      | .next t => .next t.drawTurn
      | .fault f => .fault f
      | .refused r => .refused r

/-- 20_memory R57, 10_state R42: an engine step is taken only while busy, ends in `READY` and leaves everything outside
the engine as it was; with nothing to do the block waits and only the turn is settled. After a step of an idle block the
host moves next; while the engine is busy the choice is free and one draw is counted (log entry 3). -/
def Obligations.EngineStepEndsTheBusyState : Prop :=
  (∀ s : State, s.busy = true → s.turn = .engine →
    ∃ e, step s = .next (State.drawTurn { s with toEngine := e, phase := .ready }) ∧
      e = if s.phase = .initBusy then initSequence (blockDatapath s.resets) s.irSample s.toEngine
        else blockFlush (blockDatapath s.resets) s.toEngine) ∧
  (∀ s : State, ¬(s.busy = true ∧ s.turn = .engine) → s.pending = [] → step s = .next s.drawTurn) ∧
  ∀ s : State, (s.busy = false → s.drawTurn = { s with turn := .host }) ∧
    (s.busy = true → ∃ who, s.drawTurn = { s with turn := who, draws := s.draws + 1 })

/-- 20_memory R51, R52: inside the window, a wrong width or alignment is a host fault, in every state. -/
def Obligations.BadAccessesAreBusErrors : Prop :=
  ∀ (s : State) (a : Access) (rest : List HostEvent),
    s.pending = .access a :: rest → ¬(s.busy = true ∧ s.turn = .engine) → a.off < 256 →
    (a.width ≠ 32 → step s = .fault .busWidth) ∧
    (a.width = 32 → a.off % 4 ≠ 0 → step s = .fault .busAlignment)

/-- 20_memory R49, R50: the window of 256 bytes at `BASE`, and the little-endian byte lanes of a word. That an access
outside the window changes nothing of the block is the model's reading (log entry 14). -/
def Obligations.HostPortWindowAndLanes : Prop :=
  (∀ (s : State) (addr width : Nat) (write : Bool) (d : Word),
    (∀ off, off < 256 → addr = Config.base + off →
      (s.present addr width write d).pending = s.pending ++ [.access ⟨off, width, write, d⟩]) ∧
    (addr < Config.base ∨ Config.base + 256 ≤ addr → s.present addr width write d = s)) ∧
  Config.base % 256 = 0 ∧
  (∀ (s : State) (a : Access) (rest : List HostEvent),
    s.pending = .access a :: rest → ¬(s.busy = true ∧ s.turn = .engine) → 256 ≤ a.off →
    step s = .next (State.drawTurn { s with pending := rest })) ∧
  ∀ w : Word, ofLanes (laneByte w 0) (laneByte w 1) (laneByte w 2) (laneByte w 3) = w ∧
    ∀ i j, i < 4 → j < 8 → (laneByte w i).getLsbD j = w.getLsbD (8 * i + j)

/-- 70_reset R139, R140, 10_state R46: hardware reset, in every state. -/
def Obligations.HardwareResetSetsEveryRegister : Prop :=
  ∀ (s : State) (rest : List HostEvent),
    s.pending = .hardwareReset :: rest → ¬(s.busy = true ∧ s.turn = .engine) →
    ∃ t, step s = .next t ∧ t.phase = .uninit ∧ t.statusWord = 0x00000000#32 ∧ t.doutValid = false ∧ t.overrun = false ∧
      t.errSticky = false ∧ t.lastErr = .ok ∧ t.errCause = .none ∧ t.cfgB = 0x00002000#32 ∧ t.cfgN = 0#32 ∧
      t.irWptr = 0#32 ∧ t.dout = 0#32 ∧ t.dbgSel = 0#32 ∧ t.b = 0 ∧ t.n = 0 ∧ t.nb = 0 ∧ t.iib = 0 ∧ t.hcur = 0 ∧
      t.pending = rest

/-- 10_state R46 and 95_test_vectors 2.8: what every register reads right after a hardware reset of any state; the
memories are unspecified, so nothing is said of them. -/
def Obligations.RegistersReadTheirResetValues : Prop :=
  ∀ i w, (i, w) ∈ [(Instr.rdId, 0x4F4C4131#32), (.rdStatus, 0#32), (.rdCfgB, 0x2000#32), (.rdCfgN, 0#32),
      (.rdIrWptr, 0#32), (.rdDout, 0#32), (.rdTailLen, 0xFFFFFFFF#32), (.rdNumBlocks, 0#32), (.rdActB, 0#32),
      (.rdActN, 0#32), (.rdIndexInBlock, 0#32), (.rdHistCursor, 0#32), (.rdDbgSel, 0#32), (.rdDbgData, 0#32)] →
    exec i State.reset = .next { State.reset with rdata := some w } ∧
    ∀ s : State, exec i s.hardwareReset = .next { s.hardwareReset with rdata := some w }

/-! ## Commands -/

/-- 42_control R102: `NOP`, with its reserved bits clear and set. -/
def Obligations.NopOnlyReportsOk : Prop :=
  ∀ s : State,
    decodeKey (mkKey true 0x04#8 0x00000000#32) = .nop 0#20 0#4 ∧
    exec (.nop 0#20 0#4) s = .next { s with rdata := none, lastErr := .ok, errCause := .none } ∧
    ∀ (rsv : BitVec 20) (mode : BitVec 4), rsv ≠ 0#20 ∨ mode ≠ 0#4 →
      exec (.nop rsv mode) s =
        .next { s with rdata := none, lastErr := .illegalCmd, errCause := .reservedBits, errSticky := true }

/-- 42_control R104: `CLR_ERR`, with its reserved bits clear and set. -/
def Obligations.ClrErrClearsTheStickyFlags : Prop :=
  ∀ s : State,
    decodeKey (mkKey true 0x04#8 0x04000000#32) = .clrErr 0#20 0#4 ∧
    exec (.clrErr 0#20 0#4) s =
      .next { s with rdata := none, errSticky := false, overrun := false, lastErr := .ok, errCause := .none } ∧
    ∀ (rsv : BitVec 20) (mode : BitVec 4), rsv ≠ 0#20 ∨ mode ≠ 0#4 →
      exec (.clrErr rsv mode) s =
        .next { s with rdata := none, lastErr := .illegalCmd, errCause := .reservedBits, errSticky := true }

/-- 30_encoding R69: the decode check of a command, in every state and before the command's own rule; an unknown opcode
is the row `CMD_ILLEGAL`, whose whole effect is this failure. -/
def Obligations.CommandDecodeCheck : Prop :=
  ∀ (s : State) (d : Word),
    let failed := fun x : Cause => { s with rdata := none, lastErr := .illegalCmd, errCause := x, errSticky := true }
    (5 ≤ (cmdOpc d).toNat → exec (decodeKey (mkKey true 0x04#8 d)) s = .next (failed .opcode)) ∧
    ((cmdOpc d).toNat < 5 → cmdRsv d ≠ 0#20 ∨ (cmdMode d ≠ 0#4 ∧ cmdOpc d ≠ 0x01#8) →
      exec (decodeKey (mkKey true 0x04#8 d)) s = .next (failed .reservedBits)) ∧
    ∀ (opc : BitVec 8) (rsv : BitVec 20) (mode : BitVec 4), exec (.cmdIllegal opc rsv mode) s = .next (failed .opcode)

/-- 42_control R103: `RESET`, with its reserved bits set, while busy, and accepted. The engine memories' contents become
unspecified, so nothing is said of them. -/
def Obligations.ResetCommandDiscardsTheEngine : Prop :=
  ∀ s : State,
    decodeKey (mkKey true 0x04#8 0x02000000#32) = .reset 0#20 0#4 ∧
    (∀ (rsv : BitVec 20) (mode : BitVec 4), rsv ≠ 0#20 ∨ mode ≠ 0#4 →
      exec (.reset rsv mode) s =
        .next { s with rdata := none, lastErr := .illegalCmd, errCause := .reservedBits, errSticky := true }) ∧
    (s.busy = true → exec (.reset 0#20 0#4) s =
      .next { s with rdata := none, lastErr := .busy, errCause := .none, errSticky := true }) ∧
    (s.busy = false → ∃ spectra history accumulator residue, exec (.reset 0#20 0#4) s =
      .next { s with
        rdata := none, phase := .uninit, b := 0, n := 0, nb := 0, iib := 0, hcur := 0
        irspec := spectra, hist := history, acc := accumulator, saved := residue, lastErr := .ok, errCause := .none })

/-- 40_setup R77: `IR_BEGIN`, with its reserved bits set, while busy, and accepted; no word of `IRBUF` is cleared. -/
def Obligations.IrBeginRestartsTheCount : Prop :=
  ∀ s : State,
    decodeKey (mkKey true 0x04#8 0x03000000#32) = .irBegin 0#20 0#4 ∧
    (∀ (rsv : BitVec 20) (mode : BitVec 4), rsv ≠ 0#20 ∨ mode ≠ 0#4 →
      exec (.irBegin rsv mode) s =
        .next { s with rdata := none, lastErr := .illegalCmd, errCause := .reservedBits, errSticky := true }) ∧
    (s.busy = true → exec (.irBegin 0#20 0#4) s =
      .next { s with rdata := none, lastErr := .busy, errCause := .none, errSticky := true }) ∧
    (s.busy = false → exec (.irBegin 0#20 0#4) s =
      .next { s with rdata := none, irWptr := 0#32, lastErr := .ok, errCause := .none })

/-- 42_control R114, 60_exceptions R131, 70_reset R145: the five operations rejected while busy change nothing but the
status fields. -/
def Obligations.BusyEngineRejectsFiveOperations : Prop :=
  ∀ (i : Instr) (s : State), s.busy = true → RejectedWhileBusy i = true →
    exec i s = .next { s with rdata := none, lastErr := .busy, errCause := .none, errSticky := true }

/-! ## Setup -/

/-- 40_setup R75, R76, 42_control R109: configuration and debug select writes store the word and nothing else, in every
state, and the register reads back what was written. -/
def Obligations.ConfigWritesOnlyStore : Prop :=
  ∀ (s : State) (d : Word),
    (decodeKey (mkKey true 0x10#8 d) = .wrCfgB d ∧ exec (.wrCfgB d) s = .next { s with rdata := none, cfgB := d } ∧
      exec .rdCfgB { s with cfgB := d } = .next { s with rdata := some d, cfgB := d }) ∧
    (decodeKey (mkKey true 0x14#8 d) = .wrCfgN d ∧ exec (.wrCfgN d) s = .next { s with rdata := none, cfgN := d } ∧
      exec .rdCfgN { s with cfgN := d } = .next { s with rdata := some d, cfgN := d }) ∧
    decodeKey (mkKey true 0x40#8 d) = .wrDbgSel d ∧ decodeKey (mkKey false 0x40#8 0#32) = .rdDbgSel ∧
      exec (.wrDbgSel d) s = .next { s with rdata := none, dbgSel := d } ∧
      exec .rdDbgSel { s with dbgSel := d } = .next { s with rdata := some d, dbgSel := d }

/-- 40_setup R78: an `IR_DATA` write appends one sample; its frame: every other word of `IRBUF` and every other field
stay. While busy and on a full `IRBUF` it fails. -/
def Obligations.IrDataAppendsOneSample : Prop :=
  ∀ (s : State) (d : Word),
    decodeKey (mkKey true 0x1C#8 d) = .wrIrData d ∧
    (s.busy = true → exec (.wrIrData d) s =
      .next { s with rdata := none, lastErr := .busy, errCause := .none, errSticky := true }) ∧
    (s.busy = false → Config.nMax ≤ s.irWptr.toNat → exec (.wrIrData d) s =
      .next { s with rdata := none, lastErr := .capacity, errCause := .irFull, errSticky := true }) ∧
    (s.busy = false → s.irWptr.toNat < Config.nMax → ∃ m, exec (.wrIrData d) s =
        .next { s with rdata := none, irbuf := m, irWptr := s.irWptr + 1#32, lastErr := .ok, errCause := .none } ∧
      Memory.read? m s.irWptr.toNat = some d ∧
      ∀ i, i ≠ s.irWptr.toNat → Memory.read? m i = Memory.read? s.irbuf i)

/-- 40_setup R80: which check of `INIT_CHECK` decides, for all capacities and operands. -/
def Obligations.InitCheckReportsTheFirstFailure : Prop :=
  ∀ (caps : Caps) (mode : BitVec 4) (cfgB cfgN irCount : Word),
    let r := initCheck caps mode cfgB cfgN irCount
    let b := cfgB.toInt
    let n := cfgN.toInt
    let modeOk := mode.toNat = 1
    let bOk := modeOk ∧ 0 < b ∧ IsPow2 b.toNat ∧ b ≤ caps.bMax
    let nOk := bOk ∧ 0 < n ∧ n ≤ caps.nMax
    let words := ((n.toNat - 1) / b.toNat + 1) * 2 * b.toNat
    (r = (.invalidArg, .modeUnsupported) ↔ mode.toNat = 0) ∧
    (r = (.invalidArg, .modeUnknown) ↔ 2 ≤ mode.toNat) ∧
    (r = (.invalidArg, .bNonpos) ↔ modeOk ∧ b ≤ 0) ∧
    (r = (.invalidArg, .bNotPow2) ↔ modeOk ∧ 0 < b ∧ ¬IsPow2 b.toNat) ∧
    (r = (.capacity, .bTooLarge) ↔ modeOk ∧ 0 < b ∧ IsPow2 b.toNat ∧ (caps.bMax : Int) < b) ∧
    (r = (.invalidArg, .nNonpos) ↔ bOk ∧ n ≤ 0) ∧
    (r = (.capacity, .nTooLarge) ↔ bOk ∧ 0 < n ∧ (caps.nMax : Int) < n) ∧
    (r = (.capacity, .specTooLarge) ↔ nOk ∧ caps.specWords < words) ∧
    (r = (.invalidArg, .irCount) ↔ nOk ∧ words ≤ caps.specWords ∧ (irCount.toNat : Int) ≠ n) ∧
    (r = (.ok, .none) ↔ nOk ∧ words ≤ caps.specWords ∧ (irCount.toNat : Int) = n)

/-- 40_setup R79, R81: an `INIT` whose configuration is admissible latches it and starts the initialization. R81 calls
the old `IRSPEC`, `HIST`, `ACC` and `SAVED` discarded; that they keep their contents while `INIT_BUSY`, where nothing can
read them, is the model's reading (log entry 20). -/
def Obligations.InitLatchesAnAdmissibleConfiguration : Prop :=
  ∀ (s : State) (b n : Nat), s.busy = false → s.cfgB.toInt = b → s.cfgN.toInt = n → s.irWptr.toNat = n →
    IsPow2 b → b ≤ Config.bMax → 1 ≤ n → n ≤ Config.nMax → ((n - 1) / b + 1) * 2 * b ≤ Config.specWords →
    exec (.init 0#20 1#4) s =
      .next { s with
        rdata := none, b := b, n := n, nb := (n - 1) / b + 1, iib := 0, hcur := 0, phase := .initBusy
        lastErr := .ok, errCause := .none }

/-- 40_setup R82: a failed `INIT` changes only the status fields, whatever made it fail; one rejected by its own checks
reports their code and cause. -/
def Obligations.RejectedInitKeepsTheEngine : Prop :=
  (∀ (s t : State) (rsv : BitVec 20) (mode : BitVec 4), exec (.init rsv mode) s = .next t → t.lastErr ≠ .ok →
    t = { s with rdata := none, lastErr := t.lastErr, errCause := t.errCause, errSticky := true }) ∧
  ∀ (s : State) (mode : BitVec 4) (c : Result) (x : Cause), s.busy = false →
    initCheck Config.caps mode s.cfgB s.cfgN s.irWptr = (c, x) → c ≠ .ok →
    exec (.init 0#20 mode) s = .next { s with rdata := none, lastErr := c, errCause := x, errSticky := true }

/-- 00_scope R6: the constraints on the parameters; of the contract of the FFT functions, what speaks of words (lengths
and P3). -/
def Obligations.ParametersMeetTheirConstraints : Prop :=
  IsPow2 Config.bMax ∧ 1 ≤ Config.bMax ∧ 1 ≤ Config.nMax ∧ 2 ≤ Config.specWords ∧
    Config.nMax + Config.bMax - 1 < 2 ^ 32 - 1 ∧ fpIsNaN Config.nanResult = true ∧ 2 ^ 22 ≤ fpFrac Config.nanResult ∧
    ZerosToZeros Config.fwd ∧ ZerosToZeros Config.inv ∧
    ∀ v : List Word, (Config.fwd v).length = v.length ∧ (Config.inv v).length = v.length

/-! ## Streaming -/

/-- 41_streaming R88, R91: a push while busy, before `INIT`, and accepted; the frame of an accepted one: every other word
of `HIST` and every other field stay. -/
def Obligations.PushEmitsThenStores : Prop :=
  ∀ (s : State) (x : Word),
    decodeKey (mkKey true 0x20#8 x) = .wrDin x ∧
    (s.busy = true → exec (.wrDin x) s =
      .next { s with rdata := none, lastErr := .busy, errCause := .none, errSticky := true }) ∧
    (s.phase = .uninit → exec (.wrDin x) s =
      .next { s with rdata := none, lastErr := .notInit, errCause := .none, errSticky := true }) ∧
    (s.phase = .ready → ∃ m y, exec (.wrDin x) s =
        .next { s with
          rdata := none, hist := m, iib := s.iib + 1, dout := y, doutValid := true
          overrun := s.overrun || s.doutValid, phase := if s.iib + 1 = s.b then .blockBusy else .ready
          lastErr := .ok, errCause := .none } ∧
      (∀ v, Memory.read? s.acc s.iib = some v → y = v) ∧
      Memory.read? m (s.hcur * (2 * s.b) + s.iib) = some x ∧
      ∀ i, i ≠ s.hcur * (2 * s.b) + s.iib → Memory.read? m i = Memory.read? s.hist i)

/-- 41_streaming R90. -/
def Obligations.ReadingDoutClearsItsFlag : Prop :=
  decodeKey (mkKey false 0x24#8 0#32) = .rdDout ∧
  ∀ s : State, exec .rdDout s = .next { s with rdata := some s.dout, doutValid := false }

/-- 41_streaming R97, 10_state R29: `(N - 1) + B` modulo `2^32`, or the sentinel; nothing but the state decides. -/
def Obligations.TailLengthOrSentinel : Prop :=
  decodeKey (mkKey false 0x28#8 0#32) = .rdTailLen ∧
  ∀ s : State,
    (s.phase = .ready ∨ s.phase = .blockBusy →
      exec .rdTailLen s = .next { s with rdata := some (BitVec.ofInt 32 ((s.n : Int) - 1 + s.b)) }) ∧
    (s.phase = .uninit ∨ s.phase = .initBusy → exec .rdTailLen s = .next { s with rdata := some 0xFFFFFFFF#32 })

/-- 40_setup R83, 00_scope R8: the partition of the impulse response, and that it covers every sample with the fewest
blocks. -/
def Obligations.ImpulseResponsePartition : Prop :=
  ∀ (α : Type) (D : Datapath α) (ir : Nat → α) (n b : Nat), 1 ≤ b → 1 ≤ n →
    (∀ j k, k < 2 * b → (irBlock D ir n b j)[k]? =
      some (if k < b ∧ j * b + k < n then ir (j * b + k) else D.zero)) ∧
    (∀ i, i < n → i / b < blockCount n b ∧ (irBlock D ir n b (i / b))[i % b]? = some (ir i)) ∧
    (blockCount n b - 1) * b < n ∧ n ≤ blockCount n b * b

/-- 40_setup R84, R85: what the initialization sequence leaves. -/
def Obligations.InitSequenceClearsAndTransforms : Prop :=
  ∀ (α : Type) (D : Datapath α) (ir : Nat → α) (e : Engine α), KeepsLength (2 * e.b) D.fwd →
    let f := initSequence D ir e
    f.b = e.b ∧ f.n = e.n ∧ f.nb = e.nb ∧ f.iib = 0 ∧ f.hcur = 0 ∧
    (∀ i, i < e.nb * (2 * e.b) → Memory.read? f.hist i = some D.zero) ∧
    (∀ i, i < 2 * e.b → Memory.read? f.acc i = some D.zero) ∧
    (∀ i, i < e.b → Memory.read? f.saved i = some D.zero) ∧
    ∀ j, j < e.nb → D.words .irspec f.irspec (j * (2 * e.b)) (2 * e.b) = D.fwd (irBlock D ir e.n e.b j)

/-- 41_streaming R94: one `PMAC`, word by word, over any arithmetic; nothing but `ACC` changes, and the calls of a flush
run for `j = 0, 1, ..., NB-1`. -/
def Obligations.PmacAccumulatesEveryBin : Prop :=
  ∀ (α : Type) (D : Datapath α) (e : Engine α) (j s : Nat), 1 ≤ e.b →
    let f := pmac D e j s
    let l := 2 * e.b
    let h := fun k => D.word .irspec e.irspec (j * l + k)
    let x := fun k => D.word .hist e.hist (s * l + k)
    let a := fun k => D.word .acc e.acc k
    let scale := D.scale l
    f = { e with acc := f.acc } ∧
    Memory.read? f.acc 0 = some (D.add (a 0) (D.mul (D.mul (h 0) (x 0)) scale)) ∧
    Memory.read? f.acc e.b = some (D.add (a e.b) (D.mul (D.mul (h e.b) (x e.b)) scale)) ∧
    (∀ i, 1 ≤ i → i < e.b →
      Memory.read? f.acc i =
        some (D.add (a i) (D.mul (D.sub (D.mul (h i) (x i)) (D.mul (h (l - i)) (x (l - i)))) scale)) ∧
      Memory.read? f.acc (l - i) =
        some (D.add (a (l - i)) (D.mul (D.add (D.mul (h i) (x (l - i))) (D.mul (h (l - i)) (x i))) scale))) ∧
    flushAccumulate D e = (List.range e.nb).foldl (fun g r => pmac D g r (pastSlot e.hcur e.nb r)) e ∧
    ∀ r, r < e.nb → pastSlot e.hcur e.nb r = (e.hcur + e.nb - r) % e.nb

/-- 41_streaming R94, 10_state R36: slot `(HCUR - j) mod NB` is the one `j` rounds in the past. -/
def Obligations.PastSlotIsJRoundsBack : Prop :=
  ∀ hcur nb j : Nat, hcur < nb → pastSlot hcur nb j < nb ∧ (pastSlot hcur nb j + j) % nb = hcur

/-- 41_streaming R92, R93, R95: what a block flush leaves, in terms of the responses of its two FFT transactions. -/
def Obligations.BlockFlushOverlapsAndAdds : Prop :=
  ∀ (α : Type) (D : Datapath α) (e : Engine α), 1 ≤ e.b → KeepsLength (2 * e.b) D.fwd → KeepsLength (2 * e.b) D.inv →
    let f := blockFlush D e
    let block := D.words .hist e.hist (e.hcur * (2 * e.b)) e.b ++ D.zeros e.b
    ∃ c : List α, c.length = 2 * e.b ∧
      c = D.words .acc (flushAccumulate D (flushSave D (flushTransform D e))).acc 0 (2 * e.b) ∧
      D.words .hist f.hist (e.hcur * (2 * e.b)) (2 * e.b) = D.fwd block ∧
      (∀ i, i < e.hcur * (2 * e.b) ∨ (e.hcur + 1) * (2 * e.b) ≤ i →
        Memory.read? f.hist i = Memory.read? e.hist i) ∧
      (∀ k, k < e.b → Memory.read? f.saved k = some (D.word .acc e.acc (e.b + k)) ∧
        (∀ v, (D.inv c)[k]? = some v → Memory.read? f.acc k = some (D.add v (D.word .acc e.acc (e.b + k)))) ∧
        Memory.read? f.acc (e.b + k) = (D.inv c)[e.b + k]?) ∧
      f.hcur = (e.hcur + 1) % e.nb ∧ f.iib = 0 ∧ f.b = e.b ∧ f.n = e.n ∧ f.nb = e.nb ∧ f.irspec = e.irspec

/-- 43_fft_port R116, R122: the codes of `DIR`, the transactions the block issues, and that host operations issue none. -/
def Obligations.FftTransactionsInOrder : Prop :=
  (FftDir.forward.code = 0#1 ∧ FftDir.inverse.code = 1#1) ∧
  (∀ (α : Type) (D : Datapath α) (ir : Nat → α) (e : Engine α),
    (initSequence D ir e).port = e.port ++ (List.range e.nb).map fun j =>
      ⟨.forward, Nat.log2 (2 * e.b), irBlock D ir e.n e.b j, D.fwd (irBlock D ir e.n e.b j)⟩) ∧
  (∀ (α : Type) (D : Datapath α) (e : Engine α),
    let block := D.words .hist e.hist (e.hcur * (2 * e.b)) e.b ++ D.zeros e.b
    let c := D.words .acc (flushAccumulate D (flushSave D (flushTransform D e))).acc 0 (2 * e.b)
    (blockFlush D e).port = e.port ++
      [⟨.forward, Nat.log2 (2 * e.b), block, D.fwd block⟩, ⟨.inverse, Nat.log2 (2 * e.b), c, D.inv c⟩]) ∧
  ∀ (i : Instr) (s t : State), exec i s = .next t → t.port = s.port

/-! ## Control and debug reads -/

/-- 40_setup R86, 42_control R105, R107, R108, R109: the plain register reads, in every state. -/
def Obligations.PlainReadsReturnTheirRegister : Prop :=
  ∀ s : State,
    let reads := fun (off : BitVec 8) (i : Instr) (w : Word) =>
      decodeKey (mkKey false off 0#32) = i ∧ exec i s = .next { s with rdata := some w }
    reads 0x00#8 .rdId 0x4F4C4131#32 ∧ reads 0x10#8 .rdCfgB s.cfgB ∧ reads 0x14#8 .rdCfgN s.cfgN ∧
    reads 0x18#8 .rdIrWptr s.irWptr ∧ reads 0x2C#8 .rdNumBlocks (BitVec.ofNat 32 s.nb) ∧
    reads 0x30#8 .rdActB (BitVec.ofNat 32 s.b) ∧ reads 0x34#8 .rdActN (BitVec.ofNat 32 s.n) ∧
    reads 0x38#8 .rdIndexInBlock (BitVec.ofNat 32 s.iib) ∧ reads 0x3C#8 .rdHistCursor (BitVec.ofNat 32 s.hcur) ∧
    reads 0x40#8 .rdDbgSel s.dbgSel

/-- 42_control R107, R108, 10_state R31, R32, R41: what the counts and cursors read in each state that the invariant
admits. -/
def Obligations.CountsAndCursorsReadByState : Prop :=
  ∀ s : State, s.Inv →
    (s.phase = .uninit → ∀ i, i ∈ [Instr.rdNumBlocks, .rdActB, .rdActN, .rdIndexInBlock, .rdHistCursor] →
      exec i s = .next { s with rdata := some 0#32 }) ∧
    (s.phase = .initBusy → ∀ i, i ∈ [Instr.rdIndexInBlock, .rdHistCursor] →
      exec i s = .next { s with rdata := some 0#32 }) ∧
    (s.phase = .blockBusy → exec .rdIndexInBlock s = .next { s with rdata := some (BitVec.ofNat 32 s.b) })

/-- 42_control R106, 10_state R23, 60_exceptions R126, R128: `STATUS` field by field, with its codes. -/
def Obligations.StatusShowsEveryField : Prop :=
  decodeKey (mkKey false 0x08#8 0#32) = .rdStatus ∧
  ∀ s : State, ∃ w : Word, exec .rdStatus s = .next { s with rdata := some w } ∧
    w.extractLsb' 0 2 = (match s.phase with | .uninit => 0#2 | .ready => 1#2 | .initBusy => 2#2 | .blockBusy => 3#2) ∧
    w.getLsbD 2 = s.doutValid ∧ w.getLsbD 3 = s.overrun ∧ w.getLsbD 4 = s.errSticky ∧ w.extractLsb' 5 3 = 0#3 ∧
    w.extractLsb' 8 3 = (match s.lastErr with
      | .ok => 0#3 | .notInit => 1#3 | .invalidArg => 2#3 | .capacity => 3#3 | .busy => 4#3 | .illegalCmd => 5#3) ∧
    w.getLsbD 11 = false ∧
    w.extractLsb' 12 4 = (match s.errCause with
      | .none => 0#4 | .bNonpos => 1#4 | .bNotPow2 => 2#4 | .bTooLarge => 3#4 | .nNonpos => 4#4 | .nTooLarge => 5#4
      | .specTooLarge => 6#4 | .irCount => 7#4 | .modeUnsupported => 8#4 | .modeUnknown => 9#4 | .irFull => 10#4
      | .reservedBits => 11#4 | .opcode => 12#4) ∧
    w.extractLsb' 16 16 = 0#16

/-- 42_control R110, R111: the debug window; while busy an engine memory reads as a value nothing is said about, and
only the count of draws moves. -/
def Obligations.DebugWindowReadsTheSelectedWord : Prop :=
  decodeKey (mkKey false 0x44#8 0#32) = .rdDbgData ∧
  ∀ s : State, ∃ w d, exec .rdDbgData s = .next { s with rdata := some w, draws := d } ∧
    let m := (s.dbgSel.extractLsb' 28 4).toNat
    let i := (s.dbgSel.extractLsb' 0 28).toNat
    (¬(m < 4 ∧ s.busy = true) → d = s.draws) ∧
    (m = 4 → Config.nMax ≤ i → w = 0#32) ∧
    (m = 4 → i < Config.nMax → ∀ v, Memory.read? s.irbuf i = some v → w = v) ∧
    (4 < m → w = 0#32) ∧
    (m < 4 → s.phase = .uninit → w = 0#32) ∧
    (s.phase = .ready →
      (m = 0 → (2 * s.b ≤ i → w = 0#32) ∧ (i < 2 * s.b → ∀ v, Memory.read? s.acc i = some v → w = v)) ∧
      (m = 1 → (s.b ≤ i → w = 0#32) ∧ (i < s.b → ∀ v, Memory.read? s.saved i = some v → w = v)) ∧
      (m = 2 → (s.nb * (2 * s.b) ≤ i → w = 0#32) ∧
        (i < s.nb * (2 * s.b) → ∀ v, Memory.read? s.hist i = some v → w = v)) ∧
      (m = 3 → (s.nb * (2 * s.b) ≤ i → w = 0#32) ∧
        (i < s.nb * (2 * s.b) → ∀ v, Memory.read? s.irspec i = some v → w = v)))

/-- 42_control R112: write-only registers and unmapped offsets read as zero with no effect. -/
def Obligations.UnreadableOffsetsReadZero : Prop :=
  ∀ s : State,
    exec .rdCmd s = .next { s with rdata := some 0#32 } ∧ exec .rdIrData s = .next { s with rdata := some 0#32 } ∧
    exec .rdDin s = .next { s with rdata := some 0#32 } ∧
    (∀ off, exec (.rdOther off) s = .next { s with rdata := some 0#32 }) ∧
    ∀ off : BitVec 8, off.toNat % 4 = 0 → (off.toNat ∈ [0x04, 0x1C, 0x20, 0x0C] ∨ 0x48 ≤ off.toNat) →
      exec (decodeKey (mkKey false off 0#32)) s = .next { s with rdata := some 0#32 }

/-- 42_control R113: writes of read-only registers and unmapped offsets are ignored. -/
def Obligations.UnwritableOffsetsIgnoreWrites : Prop :=
  ∀ (s : State) (d : Word),
    (∀ off, exec (.other off d) s = .next { s with rdata := none }) ∧
    ∀ off : BitVec 8, off.toNat % 4 = 0 →
      (off.toNat ∈ [0x00, 0x08, 0x18, 0x24, 0x28, 0x2C, 0x30, 0x34, 0x38, 0x3C, 0x44, 0x0C] ∨ 0x48 ≤ off.toNat) →
      exec (decodeKey (mkKey true off d)) s = .next { s with rdata := none }

/-! ## Whole-machine rules -/

/-- 20_memory R53: the read with a side effect is that of `DOUT`; every other read leaves all but the returned word and
the count of draws. -/
def Obligations.ReadsHaveNoSideEffect : Prop :=
  ∀ (i : Instr) (s t : State), IsRead i = true → i ≠ .rdDout → exec i s = .next t →
    ∃ w d, t = { s with rdata := some w, draws := d }

/-- 60_exceptions R130: the reporting operations are the writes to `CMD`, `IR_DATA` and `DIN`; no other operation writes
`LAST_ERR`, `ERR_CAUSE` or `ERR_STICKY`, a bus error ends in no next state, and an engine step reports nothing. What a
reporting operation writes does not depend on the result and cause that were there. -/
def Obligations.OnlyReportingOperationsWriteStatus : Prop :=
  (∀ (w : Bool) (off : BitVec 8) (d : Word),
    Reporting (decodeKey (mkKey w off d)) = true ↔ w = true ∧ (off = 0x04#8 ∨ off = 0x1C#8 ∨ off = 0x20#8)) ∧
  (∀ (i : Instr) (s t : State), Reporting i = false → exec i s = .next t →
    t.lastErr = s.lastErr ∧ t.errCause = s.errCause ∧ t.errSticky = s.errSticky) ∧
  (∀ (a : Access) (s t : State), a.off < 256 → a.width ≠ 32 ∨ a.off % 4 ≠ 0 → hostAccess a s ≠ .next t) ∧
  (∀ s : State, s.engineStep.lastErr = s.lastErr ∧ s.engineStep.errCause = s.errCause ∧
    s.engineStep.errSticky = s.errSticky) ∧
  ∀ (i : Instr) (s t u : State) (c : Result) (x : Cause), Reporting i = true → exec i s = .next t →
    exec i { s with lastErr := c, errCause := x } = .next u → u = t

/-- 60_exceptions R127: a reporting operation that does not end `OK` changes nothing but the status fields. -/
def Obligations.FailingOperationsChangeOnlyStatus : Prop :=
  ∀ (i : Instr) (s t : State), Reporting i = true → exec i s = .next t →
    (t.lastErr ≠ .ok →
      t = { s with rdata := none, lastErr := t.lastErr, errCause := t.errCause, errSticky := true }) ∧
    (t.lastErr = .ok → t.errCause = .none ∧ (IsClrErr i = false → t.errSticky = s.errSticky))

/-- 10_state R43: what sets and clears the three flags, for every operation, for an engine step and for a reset. -/
def Obligations.FlagsChangeOnlyAsStated : Prop :=
  (∀ (i : Instr) (s t : State), exec i s = .next t →
    let pushed := IsPush i = true ∧ t.lastErr = .ok
    let cleared := IsClrErr i = true ∧ t.lastErr = .ok
    let failed := Reporting i = true ∧ t.lastErr ≠ .ok
    (pushed → t.doutValid = true ∧ t.overrun = (s.overrun || s.doutValid)) ∧
    (i = .rdDout → t.doutValid = false) ∧
    (¬pushed → i ≠ .rdDout → t.doutValid = s.doutValid) ∧
    (cleared → t.overrun = false ∧ t.errSticky = false) ∧
    (¬pushed → ¬cleared → t.overrun = s.overrun) ∧
    (failed → t.errSticky = true) ∧
    (¬failed → ¬cleared → t.errSticky = s.errSticky)) ∧
  (∀ s : State, s.engineStep.doutValid = s.doutValid ∧ s.engineStep.overrun = s.overrun ∧
    s.engineStep.errSticky = s.errSticky) ∧
  ∀ s : State, s.hardwareReset.doutValid = false ∧ s.hardwareReset.overrun = false ∧ s.hardwareReset.errSticky = false

/-- 10_state R42: a step changes `STATE` only along the transitions of the table. -/
def Obligations.StateChangesOnlyByTheTable : Prop :=
  ∀ s t : State, step s = .next t → t.phase ≠ s.phase →
    (∃ rest, s.pending = .hardwareReset :: rest ∧ t.phase = .uninit) ∨
    (s.busy = true ∧ s.turn = .engine ∧ t.phase = .ready) ∨
    ∃ a rest k, s.pending = .access a :: rest ∧ accessKey a = .ok k ∧ t.lastErr = .ok ∧
      ((∃ mode, decodeKey k = .init 0#20 mode ∧ (s.phase = .uninit ∨ s.phase = .ready) ∧ t.phase = .initBusy) ∨
        (decodeKey k = .reset 0#20 0#4 ∧ s.phase = .ready ∧ t.phase = .uninit) ∨
        ∃ x, decodeKey k = .wrDin x ∧ s.phase = .ready ∧ t.phase = .blockBusy ∧ t.iib = t.b)

/-- 10_state R37, 40_setup R84: the impulse-response spectra are written only by the initialization sequence; a host
operation leaves them or, as `RESET`, discards them. -/
def Obligations.SpectraOutliveEveryOtherOperation : Prop :=
  (∀ (i : Instr) (s t : State), exec i s = .next t →
    t.irspec = s.irspec ∨ (i = .reset 0#20 0#4 ∧ t.phase = .uninit ∧ t.irspec = [])) ∧
  ∀ s : State, s.phase ≠ .initBusy → s.engineStep.irspec = s.irspec

/-- 42_control R114, 70_reset R148: an engine step reads none of `CFG_B`, `CFG_N` and `DBG_SEL`. -/
def Obligations.EngineIgnoresTheRequestedConfiguration : Prop :=
  ∀ (s : State) (x y z : Word),
    State.engineStep { s with cfgB := x, cfgN := y, dbgSel := z } = { s.engineStep with cfgB := x, cfgN := y, dbgSel := z }

/-! ## Invariants -/

/-- The state after reset meets the invariant. -/
def Obligations.ResetMeetsTheInvariant : Prop := State.reset.Inv

/-- 10_state R33, R41, R44, 60_exceptions R128, 70_reset R141: every step keeps the invariant. -/
def Obligations.StepKeepsTheInvariant : Prop := ∀ s t : State, s.Inv → step s = .next t → t.Inv

/-- 70_reset R141: a word that nothing has written reaches no output: with other contents of the unwritten words of every
memory, an initialization whose `N` staged samples are the same, and a push and a flush of an engine that is written where
R44 says, give the very same engine. Of `IRBUF`, a staged sample that is written is read as it was written. -/
def Obligations.UnwrittenWordsReachNoOutput : Prop :=
  (∀ (s : State) (i : Nat) (v : Word), Memory.read? s.irbuf i = some v → s.irSample i = v) ∧
  ∀ (α : Type) (D : Datapath α) (other : MemSel → Nat → α) (e : Engine α) (ir ir' : Nat → α),
    KeepsLength (2 * e.b) D.fwd → KeepsLength (2 * e.b) D.inv →
    ((∀ i, i < e.n → ir' i = ir i) → initSequence { D with unwritten := other } ir' e = initSequence D ir e) ∧
    (e.Written → e.hcur < e.nb →
      blockFlush { D with unwritten := other } e = blockFlush D e ∧
      (e.iib < e.b → pushOutput { D with unwritten := other } e = pushOutput D e))

/-! ## Binary32 arithmetic -/

/-- 00_scope R11: the sum of two finite words is the exact sum rounded once to nearest, ties to even, with the sign of
IEEE 754; likewise the difference. -/
def Obligations.AddAndSubRoundToNearestEven : Prop :=
  ∀ a b : Word, fpIsFinite a = true → fpIsFinite b = true →
    let v := fpValue a + fpValue b
    RoundsTo (v * 2 ^ 149) (fadd a b) ∧ fpIsNaN (fadd a b) = false ∧
      (v ≠ 0 → fpSign (fadd a b) = decide (v < 0)) ∧ (v = 0 → fpSign (fadd a b) = (fpSign a && fpSign b)) ∧
      let d := fpValue a - fpValue b
      RoundsTo (d * 2 ^ 149) (fsub a b) ∧ fpIsNaN (fsub a b) = false ∧
      (d ≠ 0 → fpSign (fsub a b) = decide (d < 0)) ∧ (d = 0 → fpSign (fsub a b) = (fpSign a && !fpSign b))

/-- 00_scope R11: the product of two finite words is the exact product rounded once to nearest, ties to even. -/
def Obligations.MulRoundsToNearestEven : Prop :=
  ∀ a b : Word, fpIsFinite a = true → fpIsFinite b = true →
    RoundsTo (fpValue a * fpValue b) (fmul a b) ∧ fpIsNaN (fmul a b) = false ∧
      fpSign (fmul a b) = (fpSign a != fpSign b)

/-- 00_scope R11, R12: infinities and NaNs; every NaN result is `NAN_RESULT`. -/
def Obligations.NanResultsAndInfinities : Prop :=
  ∀ a b : Word,
    (fpIsNaN (fadd a b) = true → fadd a b = Config.nanResult) ∧
    (fpIsNaN (fsub a b) = true → fsub a b = Config.nanResult) ∧
    (fpIsNaN (fmul a b) = true → fmul a b = Config.nanResult) ∧
    (fpIsNaN a = true ∨ fpIsNaN b = true →
      fadd a b = Config.nanResult ∧ fsub a b = Config.nanResult ∧ fmul a b = Config.nanResult) ∧
    (fpIsInf a = true → fpIsFinite b = true → fadd a b = a ∧ fadd b a = a) ∧
    (fpIsInf a = true → fpIsInf b = true → fadd a b = if fpSign a = fpSign b then a else Config.nanResult) ∧
    (fpIsInf a = true → fpIsFinite b = true → fsub a b = a ∧ fsub b a = fpInf (!fpSign a)) ∧
    (fpIsInf a = true → fpIsInf b = true → fsub a b = if fpSign a = fpSign b then Config.nanResult else a) ∧
    (fpIsInf a = true → fpIsNaN b = false →
      let product := if fpIsZero b = true then Config.nanResult else fpInf (fpSign a != fpSign b)
      fmul a b = product ∧ fmul b a = product)

/-- 00_scope R8, R13: the scale factor `K = 2^m` is exact, and multiplying by it is exact unless it overflows. -/
def Obligations.ScalingByKIsExact : Prop :=
  ∀ (t : Word) (m : Nat), fpIsFinite t = true → 1 ≤ m → m ≤ 127 →
    fpIsFinite (fpOfNat (2 ^ m)) = true ∧ fpValue (fpOfNat (2 ^ m)) = 2 ^ m * 2 ^ 149 ∧
    ((fpValue t * 2 ^ m).natAbs < 2 ^ (128 + 149) →
      fpIsFinite (fmul t (fpOfNat (2 ^ m))) = true ∧ fpValue (fmul t (fpOfNat (2 ^ m))) = fpValue t * 2 ^ m) ∧
    (2 ^ (128 + 149) ≤ (fpValue t * 2 ^ m).natAbs → fmul t (fpOfNat (2 ^ m)) = fpInf (fpSign t))

/-! ## Host procedures -/

/-- 70_reset R143, 30_encoding R74: the boot sequence, from any state, ends in `READY` with the configuration asked for
and the first block's outputs at hand. -/
def Obligations.BootSequenceReachesReady : Prop :=
  ∀ (s : State) (b n : Nat) (h : List Word), h.length = n → IsPow2 b → b ≤ Config.bMax → b < 2 ^ 31 → 1 ≤ n →
    n ≤ Config.nMax → n < 2 ^ 31 → ((n - 1) / b + 1) * 2 * b ≤ Config.specWords →
    let r := initB (BitVec.ofNat 32 b) (BitVec.ofNat 32 n) h s
    r.1 = .ok ∧ r.2.phase = .ready ∧ r.2.b = b ∧ r.2.n = n ∧ r.2.nb = (n - 1) / b + 1 ∧ r.2.iib = 0 ∧ r.2.hcur = 0 ∧
      r.2.tailLen = BitVec.ofNat 32 (n - 1 + b) ∧ (∀ i, i < 2 * b → Memory.read? r.2.acc i = some plusZero) ∧
      ∀ i, i < n → Memory.read? r.2.irbuf i = h[i]?

/-- 41_streaming R98, 20_memory R59: a push of the procedure is never rejected, and returns the accumulator word at the
cursor. -/
def Obligations.PolledPushIsAccepted : Prop :=
  ∀ (s : State) (x : Word), s.phase ≠ .uninit →
    let q := poll s
    let r := pushSample x s
    q.phase = .ready ∧ r.2.lastErr = .ok ∧ r.1 = r.2.dout ∧ r.2.iib = q.iib + 1 ∧
      ∀ v, Memory.read? q.acc q.iib = some v → r.1 = v

/-- 41_streaming R87, R101 (1): the outputs do not depend on how the input is cut into calls, bit for bit. The calls
`POLL` before each push, which takes weak fairness as met and holds the engine steps (log entry 8). -/
def Obligations.ChunkingDoesNotMatter : Prop :=
  ∀ (n1 n2 : Nat) (x : Nat → Word) (s : State),
    let first := process n1 x s
    let second := process n2 (fun i => x (n1 + i)) first.2.2
    let whole := process (n1 + n2 : Nat) x s
    whole.2.1 = first.2.1 ++ second.2.1 ∧ whole.1 = second.1 ∧
      { whole.2.2 with rdata := none } = { second.2.2 with rdata := none }

/-- 41_streaming R89, R98, R99, 00_scope R6: what `PROCESS` reports for a negative length and before `INIT`; `FLUSH` in
`UNINIT` and in `INIT_BUSY` pushes nothing; of a running block it returns exactly `(N - 1) + B` samples (`POLL`: log
entry 8). -/
def Obligations.FlushReturnsTheTail : Prop :=
  ∀ s : State,
    (∀ (n : Int) (x : Nat → Word), n < 0 → process n x s = (.invalidArg, [], s)) ∧
    (∀ (n : Int) (x : Nat → Word), 0 ≤ n → s.phase = .uninit →
      process n x s = (.notInit, [], { s with rdata := some s.statusWord })) ∧
    (s.phase = .uninit ∨ s.phase = .initBusy → flushTail s = (.notInit, [], { s with rdata := some 0xFFFFFFFF#32 })) ∧
    (s.Inv → s.phase = .ready ∨ s.phase = .blockBusy →
      (flushTail s).1 = .ok ∧ (flushTail s).2.1.length = s.n - 1 + s.b)

/-! ## Derived properties of the algorithm -/

/-- 41_streaming R101 (3), 43_fft_port R119 P3: a flush that reads only all-zero history slots, with finite spectra,
makes a zero of every accumulator word whose residue is a zero. -/
def Obligations.ZeroHistoryGivesZeroOutputs : Prop :=
  ∀ (e : Engine Word) (resets : Nat),
    let D := blockDatapath resets
    let f := blockFlush D e
    1 ≤ e.b → e.b ≤ 2 ^ 126 → e.hcur < e.nb →
    (∀ i, i < e.nb * (2 * e.b) → ¬(e.hcur * (2 * e.b) + e.b ≤ i ∧ i < (e.hcur + 1) * (2 * e.b)) →
      fpIsZero (D.word .hist e.hist i) = true) →
    (∀ i, i < e.nb * (2 * e.b) → fpIsFinite (D.word .irspec e.irspec i) = true) →
    (∀ k, k < e.b → fpIsZero (D.word .acc f.acc (e.b + k)) = true) ∧
    ∀ k, k < e.b → fpIsZero (D.word .acc e.acc (e.b + k)) = true → fpIsZero (D.word .acc f.acc k) = true

/-- 41_streaming R100, 40_setup R84, R85: the exact output law. Over the real numbers, with an FFT primitive that meets
P1 and P2 of its contract (P4 is not needed), push `t` after the initialization emits the linear convolution at `t - B`, and 0 before. -/
def Obligations.ExactOutputLaw : Prop :=
  ∀ (fwd inv : List ℝ → List ℝ) (unwritten : MemSel → Nat → ℝ) (e : Engine ℝ) (h x : List ℝ),
    1 ≤ e.b → e.n = h.length → 1 ≤ h.length → e.nb = blockCount e.n e.b → ConvolvesExactly (2 * e.b) fwd inv →
    let D := exactDatapath fwd inv unwritten
    let start := initSequence D (fun i => h.getD i 0) e
    ∀ t, t < x.length →
      (pushAll D start x).1[t]? = some (if t < e.b then 0 else linconv h x (t - e.b))

/-- 41_streaming R101 (2): the tail in exact arithmetic. After input `x`, the zeros of `FLUSH` emit the rest of the
convolution, and from push `x.length + (N - 1) + B` on every output is 0. -/
def Obligations.ExactTailEnds : Prop :=
  ∀ (fwd inv : List ℝ → List ℝ) (unwritten : MemSel → Nat → ℝ) (e : Engine ℝ) (h x : List ℝ) (zeros : Nat),
    1 ≤ e.b → e.n = h.length → 1 ≤ h.length → e.nb = blockCount e.n e.b → ConvolvesExactly (2 * e.b) fwd inv →
    let D := exactDatapath fwd inv unwritten
    let start := initSequence D (fun i => h.getD i 0) e
    let y := (pushAll D start (x ++ List.replicate zeros 0)).1
    ∀ t, x.length ≤ t → t < x.length + zeros →
      (t < x.length + ((h.length - 1) + e.b) → y[t]? = some (if t < e.b then 0 else linconv h x (t - e.b))) ∧
      (x.length + ((h.length - 1) + e.b) ≤ t → y[t]? = some 0)

/-- 00_scope R16, 43_fft_port R119: the reference FFT meets P1, P2 and P4 at every even length, its bins 0 and `L/2` are
real, and on words, where each output of a vector of finite words is the exact value rounded once, it meets P3 and keeps
the length. -/
def Obligations.ReferenceFftMeetsTheContract : Prop :=
  (∀ b : Nat, 1 ≤ b → ExactContract (2 * b) refForward refInverse ∧
    ∀ v : List ℝ, v.length = 2 * b → (refSpectrum v 0).im = 0 ∧ (refSpectrum v b).im = 0) ∧
  ZerosToZeros refForwardWords ∧ ZerosToZeros refInverseWords ∧
  ∀ v : List Word,
    (refForwardWords v).length = v.length ∧ (refInverseWords v).length = v.length ∧
    ((∀ w ∈ v, fpIsFinite w = true) → ∀ (k : Nat) (r : ℝ),
      ((refForward (v.map fpReal))[k]? = some r → ∃ w, (refForwardWords v)[k]? = some w ∧ RoundsRealTo r w) ∧
      ((refInverse (v.map fpReal))[k]? = some r → ∃ w, (refInverseWords v)[k]? = some w ∧ RoundsRealTo r w))

/-- 00_scope R17: the closed forms of the reference FFT. -/
def Obligations.ReferenceFftClosedForms : Prop :=
  (∀ x0 x1 : ℝ, refForward [x0, x1] = refFwd2 [x0, x1] ∧ refInverse [x0, x1] = refInv2 [x0, x1]) ∧
  ∀ x0 x1 x2 x3 : ℝ, refForward [x0, x1, x2, x3] = refFwd4 [x0, x1, x2, x3] ∧
    refInverse [x0, x1, x2, x3] = refInv4 [x0, x1, x2, x3]
end

