-- ==== Sys2Proof/Laws/Decode.lean ====
section
/-! SUPPORT. The fields of keys and command words, and the keys of accesses. -/

namespace Sys2Proof

theorem getLsbD_mkKey (w : Bool) (off : BitVec 8) (d : Word) (i : Nat) :
    (mkKey w off d).getLsbD i =
      if i < 32 then d.getLsbD i else if i - 32 < 8 then off.getLsbD (i - 32) else (BitVec.ofBool w).getLsbD (i - 32 - 8) := by
  have h : (mkKey w off d).getLsbD i = BitVec.getLsbD ((BitVec.ofBool w ++ off : BitVec (1 + 8)) ++ d) i := rfl
  rw [h, BitVec.getLsbD_append, BitVec.getLsbD_append]

theorem getLsbD_mkCmd (opc : BitVec 8) (rsv : BitVec 20) (mode : BitVec 4) (i : Nat) :
    (mkCmd opc rsv mode).getLsbD i =
      if i < 4 then mode.getLsbD i else if i - 4 < 20 then rsv.getLsbD (i - 4) else opc.getLsbD (i - 4 - 20) := by
  have h : (mkCmd opc rsv mode).getLsbD i = BitVec.getLsbD ((opc ++ rsv : BitVec (8 + 20)) ++ mode) i := rfl
  rw [h, BitVec.getLsbD_append, BitVec.getLsbD_append]

@[simp] theorem keyW_mkKey (w : Bool) (off : BitVec 8) (d : Word) : keyW (mkKey w off d) = w := by
  rw [keyW, getLsbD_mkKey]; cases w <;> rfl

@[simp] theorem keyOff_mkKey (w : Bool) (off : BitVec 8) (d : Word) : keyOff (mkKey w off d) = off := by
  apply BitVec.eq_of_getLsbD_eq
  intro i hi
  have h1 : ¬(32 + i < 32) := by omega
  have h2 : 32 + i - 32 = i := by omega
  rw [keyOff, BitVec.getLsbD_extractLsb', getLsbD_mkKey, if_neg h1, h2, if_pos hi]
  simp [hi]

@[simp] theorem keyData_mkKey (w : Bool) (off : BitVec 8) (d : Word) : keyData (mkKey w off d) = d := by
  apply BitVec.eq_of_getLsbD_eq
  intro i hi
  rw [keyData, BitVec.getLsbD_extractLsb', getLsbD_mkKey, Nat.zero_add, if_pos hi]
  simp [hi]

@[simp] theorem cmdOpc_mkCmd (opc : BitVec 8) (rsv : BitVec 20) (mode : BitVec 4) :
    cmdOpc (mkCmd opc rsv mode) = opc := by
  apply BitVec.eq_of_getLsbD_eq
  intro i hi
  have h1 : ¬(24 + i < 4) := by omega
  have h2 : ¬(24 + i - 4 < 20) := by omega
  have h3 : 24 + i - 4 - 20 = i := by omega
  rw [cmdOpc, BitVec.getLsbD_extractLsb', getLsbD_mkCmd, if_neg h1, if_neg h2, h3]
  simp [hi]

@[simp] theorem cmdRsv_mkCmd (opc : BitVec 8) (rsv : BitVec 20) (mode : BitVec 4) :
    cmdRsv (mkCmd opc rsv mode) = rsv := by
  apply BitVec.eq_of_getLsbD_eq
  intro i hi
  have h1 : ¬(4 + i < 4) := by omega
  have h2 : 4 + i - 4 = i := by omega
  rw [cmdRsv, BitVec.getLsbD_extractLsb', getLsbD_mkCmd, if_neg h1, h2, if_pos hi]
  simp [hi]

@[simp] theorem cmdMode_mkCmd (opc : BitVec 8) (rsv : BitVec 20) (mode : BitVec 4) :
    cmdMode (mkCmd opc rsv mode) = mode := by
  apply BitVec.eq_of_getLsbD_eq
  intro i hi
  rw [cmdMode, BitVec.getLsbD_extractLsb', getLsbD_mkCmd, Nat.zero_add, if_pos hi]
  simp [hi]

/-- Two keys with the same fields are the same key. -/
theorem key_ext (k k' : Key) (hw : keyW k = keyW k') (ho : keyOff k = keyOff k') (hd : keyData k = keyData k') :
    k = k' := by
  apply BitVec.eq_of_getLsbD_eq
  intro i hi
  by_cases h1 : i < 32
  · have := congrArg (fun v : Word => v.getLsbD i) hd
    simpa [keyData, BitVec.getLsbD_extractLsb', h1] using this
  · by_cases h2 : i < 40
    · have := congrArg (fun v : BitVec 8 => v.getLsbD (i - 32)) ho
      have h3 : i - 32 < 8 := by omega
      have h4 : 32 + (i - 32) = i := by omega
      simpa [keyOff, BitVec.getLsbD_extractLsb', h3, h4] using this
    · have h5 : i = 40 := by omega
      subst h5
      exact hw

theorem mkKey_fields (k : Key) : mkKey (keyW k) (keyOff k) (keyData k) = k :=
  key_ext _ _ (by simp) (by simp) (by simp)

/-- What having a key means (30_encoding R63, 20_memory R49, R51, R52). -/
theorem accessKey_ok (a : Access) (k : Key) (h : accessKey a = .ok k) :
    a.off < 256 ∧ a.width = 32 ∧ a.off % 4 = 0 ∧
      k = mkKey a.write (BitVec.ofNat 8 a.off) (if a.write then a.data else 0#32) := by
  unfold accessKey at h
  split at h
  · cases h
  · split at h
    · cases h
    · split at h
      · cases h
      · cases h
        refine ⟨by omega, by omega, by omega, rfl⟩

/-- The access of an aligned key has that key, the `DATA` of a read being 0. -/
theorem accessKey_accessOfKey (k : Key) (h : alignedOffset (keyOff k) = true) (hd : keyW k = true ∨ keyData k = 0#32) :
    accessKey (accessOfKey k) = .ok k := by
  have ha : (keyOff k).toNat % 4 = 0 := by
    have h' : ∀ o : BitVec 8, alignedOffset o = true → o.toNat % 4 = 0 := by decide
    exact h' _ h
  have hlt : ¬(256 ≤ (keyOff k).toNat) := by have := (keyOff k).isLt; omega
  have hdata : (if keyW k = true then keyData k else 0#32) = keyData k := by
    rcases hd with hd | hd
    · simp [hd]
    · simp [hd]
  have hoff : BitVec.ofNat 8 (keyOff k).toNat = keyOff k := by simp
  have ha' : ¬((keyOff k).toNat % 4 ≠ 0) := by omega
  have hw : ¬((accessOfKey k).width ≠ 32) := fun hne => hne rfl
  rw [accessKey, if_neg (show ¬(256 ≤ (accessOfKey k).off) from hlt), if_neg hw,
    if_neg (show ¬((accessOfKey k).off % 4 ≠ 0) from ha')]
  show Except.ok (mkKey (keyW k) (BitVec.ofNat 8 (keyOff k).toNat) (if keyW k then keyData k else 0#32)) = _
  rw [hoff, hdata, mkKey_fields]

end Sys2Proof
end

