-- ==== Sys2Proof/Laws/Memory.lean ====
section
/-! SUPPORT. The laws of the internal memories: reading after writing, and the canonical form. -/

namespace Sys2Proof.Machine

variable {α : Type}

@[simp] theorem Memory.read?_nil (i : Nat) : Memory.read? ([] : Memory α) i = none := rfl

@[simp] theorem Memory.read?_write_same (m : Memory α) (i : Nat) (v : α) :
    Memory.read? (Memory.write m i v) i = some v := by
  induction m with
  | nil => simp [Memory.write, Memory.read?]
  | cons p m ih =>
    obtain ⟨j, u⟩ := p
    unfold Memory.write
    split
    · simp [Memory.read?]
    · split
      · simp [Memory.read?]
      · simp [Memory.read?, *]

theorem Memory.read?_write_ne (m : Memory α) (i k : Nat) (v : α) (h : k ≠ i) :
    Memory.read? (Memory.write m i v) k = Memory.read? m k := by
  induction m with
  | nil => simp [Memory.write, Memory.read?, h]
  | cons p m ih =>
    obtain ⟨j, u⟩ := p
    unfold Memory.write
    split
    · simp [Memory.read?, h]
    · split
      · next hij => subst hij; simp [Memory.read?, h]
      · simp [Memory.read?, ih]

theorem Memory.read?_write (m : Memory α) (i k : Nat) (v : α) :
    Memory.read? (Memory.write m i v) k = if k = i then some v else Memory.read? m k := by
  split
  · next h => subst h; simp
  · next h => exact Memory.read?_write_ne m i k v h

/-- A block of words written at rising indexes: inside it the words written, outside it the old words. -/
theorem Memory.read?_writeAll (m : Memory α) (base i : Nat) (vs : List α) :
    Memory.read? (Memory.writeAll m base vs) i =
      if base ≤ i ∧ i < base + vs.length then vs[i - base]? else Memory.read? m i := by
  induction vs generalizing m base with
  | nil =>
    simp [Memory.writeAll]
  | cons v vs ih =>
    rw [Memory.writeAll, ih, Memory.read?_write]
    by_cases h : i = base
    · subst h; simp
    · by_cases h1 : base ≤ i ∧ i < base + (v :: vs).length
      · have h2 : base + 1 ≤ i ∧ i < base + 1 + vs.length := by simp at h1; omega
        obtain ⟨d, hd⟩ : ∃ d, i - base = d + 1 := ⟨i - base - 1, by omega⟩
        have : i - (base + 1) = d := by omega
        simp only [h1, h2, and_self, if_true, hd, this, List.getElem?_cons_succ]
      · have h2 : ¬(base + 1 ≤ i ∧ i < base + 1 + vs.length) := by simp at h1; omega
        rw [if_neg h1, if_neg h2, if_neg h]

theorem Memory.read?_writeAll_of_lt (m : Memory α) (base k : Nat) (vs : List α) (h : k < vs.length) :
    Memory.read? (Memory.writeAll m base vs) (base + k) = vs[k]? := by
  rw [Memory.read?_writeAll]; simp [h]

theorem Memory.mem_write (m : Memory α) (i : Nat) (v : α) (p : Nat × α) (h : p ∈ Memory.write m i v) :
    p = (i, v) ∨ p ∈ m := by
  induction m with
  | nil => simpa [Memory.write] using h
  | cons q m ih =>
    obtain ⟨j, u⟩ := q
    unfold Memory.write at h
    split at h
    · simpa using h
    · split at h
      · simp at h; rcases h with h | h <;> simp [h]
      · simp at h
        rcases h with h | h
        · simp [h]
        · rcases ih h with h | h <;> simp [h]

/-- A write keeps the canonical form. -/
theorem Memory.wf_write (m : Memory α) (i : Nat) (v : α) (h : Memory.wf m) : Memory.wf (Memory.write m i v) := by
  induction m with
  | nil => simp [Memory.write, Memory.wf]
  | cons q m ih =>
    obtain ⟨j, u⟩ := q
    rw [Memory.wf, List.pairwise_cons] at h
    unfold Memory.write
    split
    · next hij =>
      rw [Memory.wf, List.pairwise_cons, List.pairwise_cons]
      refine ⟨?_, h⟩
      intro p hp
      rcases List.mem_cons.mp hp with rfl | hp
      · exact hij
      · have := h.1 p hp; simp at this ⊢; omega
    · split
      · next hij => subst hij; rw [Memory.wf, List.pairwise_cons]; exact h
      · rw [Memory.wf, List.pairwise_cons]
        refine ⟨?_, ih h.2⟩
        intro p hp
        rcases Memory.mem_write m i v p hp with rfl | hp
        · simp; omega
        · exact h.1 p hp

/-- Writing a block of words keeps the canonical form. -/
theorem Memory.wf_writeAll (m : Memory α) (base : Nat) (vs : List α) (h : Memory.wf m) :
    Memory.wf (Memory.writeAll m base vs) := by
  induction vs generalizing m base with
  | nil => exact h
  | cons v vs ih => exact ih _ _ (Memory.wf_write m base v h)

theorem Memory.below_write (m : Memory α) (i cap : Nat) (v : α) (h : Memory.Below m cap) (hi : i < cap) :
    Memory.Below (Memory.write m i v) cap := by
  intro p hp
  rcases Memory.mem_write m i v p hp with rfl | hp
  · exact hi
  · exact h p hp

theorem Memory.below_writeAll (m : Memory α) (base cap : Nat) (vs : List α) (h : Memory.Below m cap)
    (hi : base + vs.length ≤ cap) : Memory.Below (Memory.writeAll m base vs) cap := by
  induction vs generalizing m base with
  | nil => exact h
  | cons v vs ih =>
    simp only [List.length_cons] at hi
    exact ih _ _ (Memory.below_write m base cap v h (by omega)) (by omega)

theorem Memory.writtenTo_write (m : Memory α) (i len : Nat) (v : α) (h : Memory.WrittenTo m len) :
    Memory.WrittenTo (Memory.write m i v) len := by
  intro k hk
  rw [Memory.read?_write]; split
  · rfl
  · exact h k hk

theorem Memory.writtenTo_writeAll (m : Memory α) (base len : Nat) (vs : List α) (h : Memory.WrittenTo m len) :
    Memory.WrittenTo (Memory.writeAll m base vs) len := by
  induction vs generalizing m base with
  | nil => exact h
  | cons v vs ih => exact ih _ _ (Memory.writtenTo_write m base len v h)

/-- A block written from index 0 writes every word below its length. -/
theorem Memory.writtenTo_of_writeAll (m : Memory α) (vs : List α) :
    Memory.WrittenTo (Memory.writeAll m 0 vs) vs.length := by
  intro k hk
  rw [Memory.read?_writeAll]; simp [hk]

theorem State.reset_memories_canonical : State.reset.MemoriesCanonical := by
  simp [State.MemoriesCanonical, State.reset, Memory.wf]

end Sys2Proof.Machine
end

