-- ==== Sys2Proof/Laws/Engine.lean ====
section
/-! SUPPORT. The engine's building blocks: what each leaves alone, and what it writes. -/

namespace Sys2Proof.Machine

variable {α : Type}

theorem Datapath.word_of_read? (D : Datapath α) (sel : MemSel) (m : Memory α) (i : Nat) (v : α)
    (h : Memory.read? m i = some v) : D.word sel m i = v := by
  simp [Datapath.word, h]

@[simp] theorem Datapath.words_length (D : Datapath α) (sel : MemSel) (m : Memory α) (base len : Nat) :
    (D.words sel m base len).length = len := by
  simp [Datapath.words]

@[simp] theorem Datapath.zeros_length (D : Datapath α) (len : Nat) : (D.zeros len).length = len := by
  simp [Datapath.zeros]

@[simp] theorem irBlock_length (D : Datapath α) (ir : Nat → α) (n b j : Nat) : (irBlock D ir n b j).length = 2 * b := by
  simp [irBlock]

/-- The FFT responses of the block have the length of the request (43_fft_port R118). -/
@[simp] theorem Config.meetsP3_length (f : List Word → Nat → Word) (v : List Word) :
    (Config.meetsP3 f v).length = v.length := by
  simp [Config.meetsP3]

@[simp] theorem Config.fwd_length (v : List Word) : (Config.fwd v).length = v.length := by simp [Config.fwd]

@[simp] theorem Config.inv_length (v : List Word) : (Config.inv v).length = v.length := by simp [Config.inv]

/-- P3 of 43_fft_port R119. -/
theorem Config.meetsP3_zero (f : List Word → Nat → Word) (v : List Word) (h : v.all Config.isZeroWord = true) :
    (Config.meetsP3 f v).all Config.isZeroWord = true := by
  have hz : ∀ w : Word, Config.isZeroWord (w &&& 0x80000000#32) = true := by
    intro w
    have : w &&& 0x80000000#32 &&& 0x7FFFFFFF#32 = 0#32 := by rw [BitVec.and_assoc]; simp
    simp [Config.isZeroWord, this]
  simp [Config.meetsP3, h, hz]

/-- What a transform in place writes: the words below its base and above its end stay. -/
theorem Datapath.transformInPlace_outside (D : Datapath α) (dir : FftDir) (sel : MemSel) (m : Memory α)
    (base len i : Nat) (hl : (D.fftResponse dir (D.words sel m base len)).length = len)
    (h : i < base ∨ base + len ≤ i) :
    Memory.read? (D.transformInPlace dir sel m base len).1 i = Memory.read? m i := by
  simp only [Datapath.transformInPlace]
  rw [Memory.read?_writeAll, hl, if_neg (by omega)]

section Pmac
variable (D : Datapath α) (e : Engine α) (j s : Nat)
@[simp] theorem pmac_b : (pmac D e j s).b = e.b := rfl
@[simp] theorem pmac_n : (pmac D e j s).n = e.n := rfl
@[simp] theorem pmac_nb : (pmac D e j s).nb = e.nb := rfl
@[simp] theorem pmac_iib : (pmac D e j s).iib = e.iib := rfl
@[simp] theorem pmac_hcur : (pmac D e j s).hcur = e.hcur := rfl
@[simp] theorem pmac_irspec : (pmac D e j s).irspec = e.irspec := rfl
@[simp] theorem pmac_hist : (pmac D e j s).hist = e.hist := rfl
@[simp] theorem pmac_saved : (pmac D e j s).saved = e.saved := rfl
@[simp] theorem pmac_port : (pmac D e j s).port = e.port := rfl
@[simp] theorem pmac_len : (pmac D e j s).len = e.len := rfl
end Pmac

/-- A sequence of `PMAC` calls changes `ACC` alone. -/
theorem pmacAll_frame (D : Datapath α) (slot : Nat → Nat) (js : List Nat) (e : Engine α) :
    ∃ acc, js.foldl (fun a j => pmac D a j (slot j)) e = { e with acc := acc } := by
  induction js generalizing e with
  | nil => exact ⟨e.acc, rfl⟩
  | cons j js ih =>
    obtain ⟨acc, h⟩ := ih (pmac D e j (slot j))
    exact ⟨acc, by rw [List.foldl_cons, h]; rfl⟩

/-- Flush step (d) changes `ACC` alone (41_streaming R94). -/
theorem flushAccumulate_frame (D : Datapath α) (e : Engine α) :
    ∃ acc, flushAccumulate D e = { e with acc := acc } :=
  pmacAll_frame D (pastSlot e.hcur e.nb) (List.range e.nb) e

/-- The transforms of the impulse response change `IRSPEC` and the port record alone (40_setup R84). -/
theorem initBlocks_frame (D : Datapath α) (ir : Nat → α) (js : List Nat) (e : Engine α) :
    ∃ irspec port, js.foldl (initBlock D ir) e = { e with irspec := irspec, port := port } := by
  induction js generalizing e with
  | nil => exact ⟨e.irspec, e.port, rfl⟩
  | cons j js ih =>
    obtain ⟨m, p, h⟩ := ih (initBlock D ir e j)
    exact ⟨m, p, by rw [List.foldl_cons, h]; rfl⟩

/-- What the initialization sequence writes, but for the contents of `IRSPEC` and the port record (40_setup R84). -/
theorem initSequence_shape (D : Datapath α) (ir : Nat → α) (e : Engine α) :
    ∃ irspec port, initSequence D ir e =
      { e with
        irspec := irspec, port := port
        hist := Memory.writeAll e.hist 0 (D.zeros (e.nb * e.len))
        acc := Memory.writeAll e.acc 0 (D.zeros e.len)
        saved := Memory.writeAll e.saved 0 (D.zeros e.b)
        iib := 0, hcur := 0 } := by
  obtain ⟨m, p, h⟩ := initBlocks_frame D ir (List.range e.nb) e
  exact ⟨m, p, by rw [initSequence, h]; rfl⟩

/-- A block flush keeps the active configuration and `IRSPEC`, advances the history cursor and restarts the block
(41_streaming R92). -/
theorem blockFlush_frame (D : Datapath α) (e : Engine α) :
    (blockFlush D e).b = e.b ∧ (blockFlush D e).n = e.n ∧ (blockFlush D e).nb = e.nb ∧
      (blockFlush D e).irspec = e.irspec ∧ (blockFlush D e).iib = 0 ∧ (blockFlush D e).hcur = (e.hcur + 1) % e.nb := by
  obtain ⟨acc, h⟩ := flushAccumulate_frame D (flushSave D (flushTransform D e))
  rw [blockFlush, h]
  exact ⟨rfl, rfl, rfl, rfl, rfl, rfl⟩

/-- An engine step ends the busy state and writes the engine alone (20_memory R57, 10_state R42). -/
theorem State.engineStep_cases (s : State) :
    (s.phase = .initBusy ∧ s.engineStep =
        { s with toEngine := initSequence (blockDatapath s.resets) s.irSample s.toEngine, phase := .ready }) ∨
      (s.phase = .blockBusy ∧ s.engineStep =
        { s with toEngine := blockFlush (blockDatapath s.resets) s.toEngine, phase := .ready }) ∨
      ((s.phase = .uninit ∨ s.phase = .ready) ∧ s.engineStep = s) := by
  unfold State.engineStep
  cases h : s.phase <;> simp

end Sys2Proof.Machine
end

