-- ==== Sys2Proof/Laws/State.lean ====
section
/-! SUPPORT. The state after each named update, field by field. -/

namespace Sys2Proof.Machine

@[simp] theorem State.respond_toEngine (s : State) (w : Word) : (s.respond w).toEngine = s.toEngine := rfl

@[simp] theorem State.respond_phase (s : State) (w : Word) : (s.respond w).phase = s.phase := rfl

@[simp] theorem State.respond_doutValid (s : State) (w : Word) : (s.respond w).doutValid = s.doutValid := rfl

@[simp] theorem State.respond_overrun (s : State) (w : Word) : (s.respond w).overrun = s.overrun := rfl

@[simp] theorem State.respond_errSticky (s : State) (w : Word) : (s.respond w).errSticky = s.errSticky := rfl

@[simp] theorem State.respond_lastErr (s : State) (w : Word) : (s.respond w).lastErr = s.lastErr := rfl

@[simp] theorem State.respond_errCause (s : State) (w : Word) : (s.respond w).errCause = s.errCause := rfl

@[simp] theorem State.respond_cfgB (s : State) (w : Word) : (s.respond w).cfgB = s.cfgB := rfl

@[simp] theorem State.respond_cfgN (s : State) (w : Word) : (s.respond w).cfgN = s.cfgN := rfl

@[simp] theorem State.respond_irWptr (s : State) (w : Word) : (s.respond w).irWptr = s.irWptr := rfl

@[simp] theorem State.respond_dout (s : State) (w : Word) : (s.respond w).dout = s.dout := rfl

@[simp] theorem State.respond_dbgSel (s : State) (w : Word) : (s.respond w).dbgSel = s.dbgSel := rfl

@[simp] theorem State.respond_irbuf (s : State) (w : Word) : (s.respond w).irbuf = s.irbuf := rfl

@[simp] theorem State.respond_rdata (s : State) (w : Word) : (s.respond w).rdata = some w := rfl

@[simp] theorem State.respond_pending (s : State) (w : Word) : (s.respond w).pending = s.pending := rfl

@[simp] theorem State.respond_turn (s : State) (w : Word) : (s.respond w).turn = s.turn := rfl

@[simp] theorem State.respond_draws (s : State) (w : Word) : (s.respond w).draws = s.draws := rfl

@[simp] theorem State.respond_resets (s : State) (w : Word) : (s.respond w).resets = s.resets := rfl

@[simp] theorem State.written_toEngine (s : State) : (s.written).toEngine = s.toEngine := rfl

@[simp] theorem State.written_phase (s : State) : (s.written).phase = s.phase := rfl

@[simp] theorem State.written_doutValid (s : State) : (s.written).doutValid = s.doutValid := rfl

@[simp] theorem State.written_overrun (s : State) : (s.written).overrun = s.overrun := rfl

@[simp] theorem State.written_errSticky (s : State) : (s.written).errSticky = s.errSticky := rfl

@[simp] theorem State.written_lastErr (s : State) : (s.written).lastErr = s.lastErr := rfl

@[simp] theorem State.written_errCause (s : State) : (s.written).errCause = s.errCause := rfl

@[simp] theorem State.written_cfgB (s : State) : (s.written).cfgB = s.cfgB := rfl

@[simp] theorem State.written_cfgN (s : State) : (s.written).cfgN = s.cfgN := rfl

@[simp] theorem State.written_irWptr (s : State) : (s.written).irWptr = s.irWptr := rfl

@[simp] theorem State.written_dout (s : State) : (s.written).dout = s.dout := rfl

@[simp] theorem State.written_dbgSel (s : State) : (s.written).dbgSel = s.dbgSel := rfl

@[simp] theorem State.written_irbuf (s : State) : (s.written).irbuf = s.irbuf := rfl

@[simp] theorem State.written_rdata (s : State) : (s.written).rdata = none := rfl

@[simp] theorem State.written_pending (s : State) : (s.written).pending = s.pending := rfl

@[simp] theorem State.written_turn (s : State) : (s.written).turn = s.turn := rfl

@[simp] theorem State.written_draws (s : State) : (s.written).draws = s.draws := rfl

@[simp] theorem State.written_resets (s : State) : (s.written).resets = s.resets := rfl

@[simp] theorem State.report_toEngine (s : State) (c : Result) (x : Cause) : (s.report c x).toEngine = s.toEngine := rfl

@[simp] theorem State.report_phase (s : State) (c : Result) (x : Cause) : (s.report c x).phase = s.phase := rfl

@[simp] theorem State.report_doutValid (s : State) (c : Result) (x : Cause) : (s.report c x).doutValid = s.doutValid := rfl

@[simp] theorem State.report_overrun (s : State) (c : Result) (x : Cause) : (s.report c x).overrun = s.overrun := rfl

@[simp] theorem State.report_errSticky (s : State) (c : Result) (x : Cause) : (s.report c x).errSticky = (s.errSticky || c != .ok) := rfl

@[simp] theorem State.report_lastErr (s : State) (c : Result) (x : Cause) : (s.report c x).lastErr = c := rfl

@[simp] theorem State.report_errCause (s : State) (c : Result) (x : Cause) : (s.report c x).errCause = x := rfl

@[simp] theorem State.report_cfgB (s : State) (c : Result) (x : Cause) : (s.report c x).cfgB = s.cfgB := rfl

@[simp] theorem State.report_cfgN (s : State) (c : Result) (x : Cause) : (s.report c x).cfgN = s.cfgN := rfl

@[simp] theorem State.report_irWptr (s : State) (c : Result) (x : Cause) : (s.report c x).irWptr = s.irWptr := rfl

@[simp] theorem State.report_dout (s : State) (c : Result) (x : Cause) : (s.report c x).dout = s.dout := rfl

@[simp] theorem State.report_dbgSel (s : State) (c : Result) (x : Cause) : (s.report c x).dbgSel = s.dbgSel := rfl

@[simp] theorem State.report_irbuf (s : State) (c : Result) (x : Cause) : (s.report c x).irbuf = s.irbuf := rfl

@[simp] theorem State.report_rdata (s : State) (c : Result) (x : Cause) : (s.report c x).rdata = s.rdata := rfl

@[simp] theorem State.report_pending (s : State) (c : Result) (x : Cause) : (s.report c x).pending = s.pending := rfl

@[simp] theorem State.report_turn (s : State) (c : Result) (x : Cause) : (s.report c x).turn = s.turn := rfl

@[simp] theorem State.report_draws (s : State) (c : Result) (x : Cause) : (s.report c x).draws = s.draws := rfl

@[simp] theorem State.report_resets (s : State) (c : Result) (x : Cause) : (s.report c x).resets = s.resets := rfl

@[simp] theorem State.fail_toEngine (s : State) (c : Result) (x : Cause) : (s.fail c x).toEngine = s.toEngine := rfl

@[simp] theorem State.fail_phase (s : State) (c : Result) (x : Cause) : (s.fail c x).phase = s.phase := rfl

@[simp] theorem State.fail_doutValid (s : State) (c : Result) (x : Cause) : (s.fail c x).doutValid = s.doutValid := rfl

@[simp] theorem State.fail_overrun (s : State) (c : Result) (x : Cause) : (s.fail c x).overrun = s.overrun := rfl

@[simp] theorem State.fail_errSticky (s : State) (c : Result) (x : Cause) : (s.fail c x).errSticky = (s.errSticky || c != .ok) := rfl

@[simp] theorem State.fail_lastErr (s : State) (c : Result) (x : Cause) : (s.fail c x).lastErr = c := rfl

@[simp] theorem State.fail_errCause (s : State) (c : Result) (x : Cause) : (s.fail c x).errCause = x := rfl

@[simp] theorem State.fail_cfgB (s : State) (c : Result) (x : Cause) : (s.fail c x).cfgB = s.cfgB := rfl

@[simp] theorem State.fail_cfgN (s : State) (c : Result) (x : Cause) : (s.fail c x).cfgN = s.cfgN := rfl

@[simp] theorem State.fail_irWptr (s : State) (c : Result) (x : Cause) : (s.fail c x).irWptr = s.irWptr := rfl

@[simp] theorem State.fail_dout (s : State) (c : Result) (x : Cause) : (s.fail c x).dout = s.dout := rfl

@[simp] theorem State.fail_dbgSel (s : State) (c : Result) (x : Cause) : (s.fail c x).dbgSel = s.dbgSel := rfl

@[simp] theorem State.fail_irbuf (s : State) (c : Result) (x : Cause) : (s.fail c x).irbuf = s.irbuf := rfl

@[simp] theorem State.fail_rdata (s : State) (c : Result) (x : Cause) : (s.fail c x).rdata = s.rdata := rfl

@[simp] theorem State.fail_pending (s : State) (c : Result) (x : Cause) : (s.fail c x).pending = s.pending := rfl

@[simp] theorem State.fail_turn (s : State) (c : Result) (x : Cause) : (s.fail c x).turn = s.turn := rfl

@[simp] theorem State.fail_draws (s : State) (c : Result) (x : Cause) : (s.fail c x).draws = s.draws := rfl

@[simp] theorem State.fail_resets (s : State) (c : Result) (x : Cause) : (s.fail c x).resets = s.resets := rfl

@[simp] theorem State.succeed_toEngine (s : State) : (s.succeed).toEngine = s.toEngine := rfl

@[simp] theorem State.succeed_phase (s : State) : (s.succeed).phase = s.phase := rfl

@[simp] theorem State.succeed_doutValid (s : State) : (s.succeed).doutValid = s.doutValid := rfl

@[simp] theorem State.succeed_overrun (s : State) : (s.succeed).overrun = s.overrun := rfl

@[simp] theorem State.succeed_errSticky (s : State) : (s.succeed).errSticky = (s.errSticky || Result.ok != .ok) := rfl

@[simp] theorem State.succeed_lastErr (s : State) : (s.succeed).lastErr = .ok := rfl

@[simp] theorem State.succeed_errCause (s : State) : (s.succeed).errCause = .none := rfl

@[simp] theorem State.succeed_cfgB (s : State) : (s.succeed).cfgB = s.cfgB := rfl

@[simp] theorem State.succeed_cfgN (s : State) : (s.succeed).cfgN = s.cfgN := rfl

@[simp] theorem State.succeed_irWptr (s : State) : (s.succeed).irWptr = s.irWptr := rfl

@[simp] theorem State.succeed_dout (s : State) : (s.succeed).dout = s.dout := rfl

@[simp] theorem State.succeed_dbgSel (s : State) : (s.succeed).dbgSel = s.dbgSel := rfl

@[simp] theorem State.succeed_irbuf (s : State) : (s.succeed).irbuf = s.irbuf := rfl

@[simp] theorem State.succeed_rdata (s : State) : (s.succeed).rdata = s.rdata := rfl

@[simp] theorem State.succeed_pending (s : State) : (s.succeed).pending = s.pending := rfl

@[simp] theorem State.succeed_turn (s : State) : (s.succeed).turn = s.turn := rfl

@[simp] theorem State.succeed_draws (s : State) : (s.succeed).draws = s.draws := rfl

@[simp] theorem State.succeed_resets (s : State) : (s.succeed).resets = s.resets := rfl

@[simp] theorem State.discardEngine_toEngine (s : State) : (s.discardEngine).toEngine = { s.toEngine with irspec := [], hist := [], acc := [], saved := [] } := rfl

@[simp] theorem State.discardEngine_phase (s : State) : (s.discardEngine).phase = s.phase := rfl

@[simp] theorem State.discardEngine_doutValid (s : State) : (s.discardEngine).doutValid = s.doutValid := rfl

@[simp] theorem State.discardEngine_overrun (s : State) : (s.discardEngine).overrun = s.overrun := rfl

@[simp] theorem State.discardEngine_errSticky (s : State) : (s.discardEngine).errSticky = s.errSticky := rfl

@[simp] theorem State.discardEngine_lastErr (s : State) : (s.discardEngine).lastErr = s.lastErr := rfl

@[simp] theorem State.discardEngine_errCause (s : State) : (s.discardEngine).errCause = s.errCause := rfl

@[simp] theorem State.discardEngine_cfgB (s : State) : (s.discardEngine).cfgB = s.cfgB := rfl

@[simp] theorem State.discardEngine_cfgN (s : State) : (s.discardEngine).cfgN = s.cfgN := rfl

@[simp] theorem State.discardEngine_irWptr (s : State) : (s.discardEngine).irWptr = s.irWptr := rfl

@[simp] theorem State.discardEngine_dout (s : State) : (s.discardEngine).dout = s.dout := rfl

@[simp] theorem State.discardEngine_dbgSel (s : State) : (s.discardEngine).dbgSel = s.dbgSel := rfl

@[simp] theorem State.discardEngine_irbuf (s : State) : (s.discardEngine).irbuf = s.irbuf := rfl

@[simp] theorem State.discardEngine_rdata (s : State) : (s.discardEngine).rdata = s.rdata := rfl

@[simp] theorem State.discardEngine_pending (s : State) : (s.discardEngine).pending = s.pending := rfl

@[simp] theorem State.discardEngine_turn (s : State) : (s.discardEngine).turn = s.turn := rfl

@[simp] theorem State.discardEngine_draws (s : State) : (s.discardEngine).draws = s.draws := rfl

@[simp] theorem State.discardEngine_resets (s : State) : (s.discardEngine).resets = s.resets := rfl

@[simp] theorem State.acceptInit_toEngine (s : State) : (s.acceptInit).toEngine = { s.toEngine with
      b := (int32 s.cfgB).toNat
      n := (int32 s.cfgN).toNat
      nb := blockCount (int32 s.cfgN).toNat (int32 s.cfgB).toNat
      iib := 0
      hcur := 0 } := rfl

@[simp] theorem State.acceptInit_phase (s : State) : (s.acceptInit).phase = .initBusy := rfl

@[simp] theorem State.acceptInit_doutValid (s : State) : (s.acceptInit).doutValid = s.doutValid := rfl

@[simp] theorem State.acceptInit_overrun (s : State) : (s.acceptInit).overrun = s.overrun := rfl

@[simp] theorem State.acceptInit_errSticky (s : State) : (s.acceptInit).errSticky = s.errSticky := rfl

@[simp] theorem State.acceptInit_lastErr (s : State) : (s.acceptInit).lastErr = s.lastErr := rfl

@[simp] theorem State.acceptInit_errCause (s : State) : (s.acceptInit).errCause = s.errCause := rfl

@[simp] theorem State.acceptInit_cfgB (s : State) : (s.acceptInit).cfgB = s.cfgB := rfl

@[simp] theorem State.acceptInit_cfgN (s : State) : (s.acceptInit).cfgN = s.cfgN := rfl

@[simp] theorem State.acceptInit_irWptr (s : State) : (s.acceptInit).irWptr = s.irWptr := rfl

@[simp] theorem State.acceptInit_dout (s : State) : (s.acceptInit).dout = s.dout := rfl

@[simp] theorem State.acceptInit_dbgSel (s : State) : (s.acceptInit).dbgSel = s.dbgSel := rfl

@[simp] theorem State.acceptInit_irbuf (s : State) : (s.acceptInit).irbuf = s.irbuf := rfl

@[simp] theorem State.acceptInit_rdata (s : State) : (s.acceptInit).rdata = s.rdata := rfl

@[simp] theorem State.acceptInit_pending (s : State) : (s.acceptInit).pending = s.pending := rfl

@[simp] theorem State.acceptInit_turn (s : State) : (s.acceptInit).turn = s.turn := rfl

@[simp] theorem State.acceptInit_draws (s : State) : (s.acceptInit).draws = s.draws := rfl

@[simp] theorem State.acceptInit_resets (s : State) : (s.acceptInit).resets = s.resets := rfl

@[simp] theorem State.acceptPush_toEngine (s : State) (d : Word) : (s.acceptPush d).toEngine = pushStore s.toEngine d := rfl

@[simp] theorem State.acceptPush_phase (s : State) (d : Word) : (s.acceptPush d).phase = (if (pushStore s.toEngine d).iib = (pushStore s.toEngine d).b then .blockBusy else s.phase) := rfl

@[simp] theorem State.acceptPush_doutValid (s : State) (d : Word) : (s.acceptPush d).doutValid = true := rfl

@[simp] theorem State.acceptPush_overrun (s : State) (d : Word) : (s.acceptPush d).overrun = (s.overrun || s.doutValid) := rfl

@[simp] theorem State.acceptPush_errSticky (s : State) (d : Word) : (s.acceptPush d).errSticky = s.errSticky := rfl

@[simp] theorem State.acceptPush_lastErr (s : State) (d : Word) : (s.acceptPush d).lastErr = s.lastErr := rfl

@[simp] theorem State.acceptPush_errCause (s : State) (d : Word) : (s.acceptPush d).errCause = s.errCause := rfl

@[simp] theorem State.acceptPush_cfgB (s : State) (d : Word) : (s.acceptPush d).cfgB = s.cfgB := rfl

@[simp] theorem State.acceptPush_cfgN (s : State) (d : Word) : (s.acceptPush d).cfgN = s.cfgN := rfl

@[simp] theorem State.acceptPush_irWptr (s : State) (d : Word) : (s.acceptPush d).irWptr = s.irWptr := rfl

@[simp] theorem State.acceptPush_dout (s : State) (d : Word) : (s.acceptPush d).dout = pushOutput (blockDatapath s.resets) s.toEngine := rfl

@[simp] theorem State.acceptPush_dbgSel (s : State) (d : Word) : (s.acceptPush d).dbgSel = s.dbgSel := rfl

@[simp] theorem State.acceptPush_irbuf (s : State) (d : Word) : (s.acceptPush d).irbuf = s.irbuf := rfl

@[simp] theorem State.acceptPush_rdata (s : State) (d : Word) : (s.acceptPush d).rdata = s.rdata := rfl

@[simp] theorem State.acceptPush_pending (s : State) (d : Word) : (s.acceptPush d).pending = s.pending := rfl

@[simp] theorem State.acceptPush_turn (s : State) (d : Word) : (s.acceptPush d).turn = s.turn := rfl

@[simp] theorem State.acceptPush_draws (s : State) (d : Word) : (s.acceptPush d).draws = s.draws := rfl

@[simp] theorem State.acceptPush_resets (s : State) (d : Word) : (s.acceptPush d).resets = s.resets := rfl

@[simp] theorem State.resetCommand_toEngine (s : State) : (s.resetCommand).toEngine = { s.toEngine with
      irspec := [], hist := [], acc := [], saved := [], b := 0, n := 0, nb := 0, iib := 0, hcur := 0 } := rfl

@[simp] theorem State.resetCommand_phase (s : State) : (s.resetCommand).phase = .uninit := rfl

@[simp] theorem State.resetCommand_doutValid (s : State) : (s.resetCommand).doutValid = s.doutValid := rfl

@[simp] theorem State.resetCommand_overrun (s : State) : (s.resetCommand).overrun = s.overrun := rfl

@[simp] theorem State.resetCommand_errSticky (s : State) : (s.resetCommand).errSticky = (s.errSticky || Result.ok != .ok) := rfl

@[simp] theorem State.resetCommand_lastErr (s : State) : (s.resetCommand).lastErr = .ok := rfl

@[simp] theorem State.resetCommand_errCause (s : State) : (s.resetCommand).errCause = .none := rfl

@[simp] theorem State.resetCommand_cfgB (s : State) : (s.resetCommand).cfgB = s.cfgB := rfl

@[simp] theorem State.resetCommand_cfgN (s : State) : (s.resetCommand).cfgN = s.cfgN := rfl

@[simp] theorem State.resetCommand_irWptr (s : State) : (s.resetCommand).irWptr = s.irWptr := rfl

@[simp] theorem State.resetCommand_dout (s : State) : (s.resetCommand).dout = s.dout := rfl

@[simp] theorem State.resetCommand_dbgSel (s : State) : (s.resetCommand).dbgSel = s.dbgSel := rfl

@[simp] theorem State.resetCommand_irbuf (s : State) : (s.resetCommand).irbuf = s.irbuf := rfl

@[simp] theorem State.resetCommand_rdata (s : State) : (s.resetCommand).rdata = s.rdata := rfl

@[simp] theorem State.resetCommand_pending (s : State) : (s.resetCommand).pending = s.pending := rfl

@[simp] theorem State.resetCommand_turn (s : State) : (s.resetCommand).turn = s.turn := rfl

@[simp] theorem State.resetCommand_draws (s : State) : (s.resetCommand).draws = s.draws := rfl

@[simp] theorem State.resetCommand_resets (s : State) : (s.resetCommand).resets = s.resets := rfl

@[simp] theorem State.hardwareReset_toEngine (s : State) : (s.hardwareReset).toEngine = State.reset.toEngine := rfl

@[simp] theorem State.hardwareReset_phase (s : State) : (s.hardwareReset).phase = State.reset.phase := rfl

@[simp] theorem State.hardwareReset_doutValid (s : State) : (s.hardwareReset).doutValid = State.reset.doutValid := rfl

@[simp] theorem State.hardwareReset_overrun (s : State) : (s.hardwareReset).overrun = State.reset.overrun := rfl

@[simp] theorem State.hardwareReset_errSticky (s : State) : (s.hardwareReset).errSticky = State.reset.errSticky := rfl

@[simp] theorem State.hardwareReset_lastErr (s : State) : (s.hardwareReset).lastErr = State.reset.lastErr := rfl

@[simp] theorem State.hardwareReset_errCause (s : State) : (s.hardwareReset).errCause = State.reset.errCause := rfl

@[simp] theorem State.hardwareReset_cfgB (s : State) : (s.hardwareReset).cfgB = State.reset.cfgB := rfl

@[simp] theorem State.hardwareReset_cfgN (s : State) : (s.hardwareReset).cfgN = State.reset.cfgN := rfl

@[simp] theorem State.hardwareReset_irWptr (s : State) : (s.hardwareReset).irWptr = State.reset.irWptr := rfl

@[simp] theorem State.hardwareReset_dout (s : State) : (s.hardwareReset).dout = State.reset.dout := rfl

@[simp] theorem State.hardwareReset_dbgSel (s : State) : (s.hardwareReset).dbgSel = State.reset.dbgSel := rfl

@[simp] theorem State.hardwareReset_irbuf (s : State) : (s.hardwareReset).irbuf = State.reset.irbuf := rfl

@[simp] theorem State.hardwareReset_rdata (s : State) : (s.hardwareReset).rdata = State.reset.rdata := rfl

@[simp] theorem State.hardwareReset_pending (s : State) : (s.hardwareReset).pending = s.pending := rfl

@[simp] theorem State.hardwareReset_turn (s : State) : (s.hardwareReset).turn = State.reset.turn := rfl

@[simp] theorem State.hardwareReset_draws (s : State) : (s.hardwareReset).draws = s.draws := rfl

@[simp] theorem State.hardwareReset_resets (s : State) : (s.hardwareReset).resets = s.resets + 1 := rfl

@[simp] theorem placeKey_toEngine (s : State) (k : Key) : (placeKey s k).toEngine = s.toEngine := rfl

@[simp] theorem placeKey_phase (s : State) (k : Key) : (placeKey s k).phase = s.phase := rfl

@[simp] theorem placeKey_doutValid (s : State) (k : Key) : (placeKey s k).doutValid = s.doutValid := rfl

@[simp] theorem placeKey_overrun (s : State) (k : Key) : (placeKey s k).overrun = s.overrun := rfl

@[simp] theorem placeKey_errSticky (s : State) (k : Key) : (placeKey s k).errSticky = s.errSticky := rfl

@[simp] theorem placeKey_lastErr (s : State) (k : Key) : (placeKey s k).lastErr = s.lastErr := rfl

@[simp] theorem placeKey_errCause (s : State) (k : Key) : (placeKey s k).errCause = s.errCause := rfl

@[simp] theorem placeKey_cfgB (s : State) (k : Key) : (placeKey s k).cfgB = s.cfgB := rfl

@[simp] theorem placeKey_cfgN (s : State) (k : Key) : (placeKey s k).cfgN = s.cfgN := rfl

@[simp] theorem placeKey_irWptr (s : State) (k : Key) : (placeKey s k).irWptr = s.irWptr := rfl

@[simp] theorem placeKey_dout (s : State) (k : Key) : (placeKey s k).dout = s.dout := rfl

@[simp] theorem placeKey_dbgSel (s : State) (k : Key) : (placeKey s k).dbgSel = s.dbgSel := rfl

@[simp] theorem placeKey_irbuf (s : State) (k : Key) : (placeKey s k).irbuf = s.irbuf := rfl

@[simp] theorem placeKey_rdata (s : State) (k : Key) : (placeKey s k).rdata = s.rdata := rfl

@[simp] theorem placeKey_pending (s : State) (k : Key) : (placeKey s k).pending = .access (accessOfKey k) :: s.pending := rfl

@[simp] theorem placeKey_turn (s : State) (k : Key) : (placeKey s k).turn = .host := rfl

@[simp] theorem placeKey_draws (s : State) (k : Key) : (placeKey s k).draws = s.draws := rfl

@[simp] theorem placeKey_resets (s : State) (k : Key) : (placeKey s k).resets = s.resets := rfl

@[simp] theorem State.drawTurn_toEngine (s : State) : s.drawTurn.toEngine = s.toEngine := by
  unfold State.drawTurn; split <;> rfl

@[simp] theorem State.drawTurn_phase (s : State) : s.drawTurn.phase = s.phase := by
  unfold State.drawTurn; split <;> rfl

@[simp] theorem State.drawTurn_doutValid (s : State) : s.drawTurn.doutValid = s.doutValid := by
  unfold State.drawTurn; split <;> rfl

@[simp] theorem State.drawTurn_overrun (s : State) : s.drawTurn.overrun = s.overrun := by
  unfold State.drawTurn; split <;> rfl

@[simp] theorem State.drawTurn_errSticky (s : State) : s.drawTurn.errSticky = s.errSticky := by
  unfold State.drawTurn; split <;> rfl

@[simp] theorem State.drawTurn_lastErr (s : State) : s.drawTurn.lastErr = s.lastErr := by
  unfold State.drawTurn; split <;> rfl

@[simp] theorem State.drawTurn_errCause (s : State) : s.drawTurn.errCause = s.errCause := by
  unfold State.drawTurn; split <;> rfl

@[simp] theorem State.drawTurn_cfgB (s : State) : s.drawTurn.cfgB = s.cfgB := by
  unfold State.drawTurn; split <;> rfl

@[simp] theorem State.drawTurn_cfgN (s : State) : s.drawTurn.cfgN = s.cfgN := by
  unfold State.drawTurn; split <;> rfl

@[simp] theorem State.drawTurn_irWptr (s : State) : s.drawTurn.irWptr = s.irWptr := by
  unfold State.drawTurn; split <;> rfl

@[simp] theorem State.drawTurn_dout (s : State) : s.drawTurn.dout = s.dout := by
  unfold State.drawTurn; split <;> rfl

@[simp] theorem State.drawTurn_dbgSel (s : State) : s.drawTurn.dbgSel = s.dbgSel := by
  unfold State.drawTurn; split <;> rfl

@[simp] theorem State.drawTurn_irbuf (s : State) : s.drawTurn.irbuf = s.irbuf := by
  unfold State.drawTurn; split <;> rfl

@[simp] theorem State.drawTurn_rdata (s : State) : s.drawTurn.rdata = s.rdata := by
  unfold State.drawTurn; split <;> rfl

@[simp] theorem State.drawTurn_pending (s : State) : s.drawTurn.pending = s.pending := by
  unfold State.drawTurn; split <;> rfl

@[simp] theorem State.drawTurn_resets (s : State) : s.drawTurn.resets = s.resets := by
  unfold State.drawTurn; split <;> rfl

theorem State.drawTurn_idle (s : State) (h : s.busy = false) : s.drawTurn = { s with turn := .host } := by
  simp [State.drawTurn, h]

theorem State.drawTurn_busy (s : State) (h : s.busy = true) :
    s.drawTurn = { s with turn := if Config.engineMoves s.draws then .engine else .host, draws := s.draws + 1 } := by
  simp [State.drawTurn, h]

@[simp] theorem State.busy_respond (s : State) (w : Word) : (s.respond w).busy = s.busy := rfl

@[simp] theorem State.busy_written (s : State) : s.written.busy = s.busy := rfl

@[simp] theorem State.busy_fail (s : State) (c : Result) (x : Cause) : (s.fail c x).busy = s.busy := rfl

@[simp] theorem State.busy_drawTurn (s : State) : s.drawTurn.busy = s.busy := by simp [State.busy]

theorem State.busy_iff (s : State) : s.busy = true ↔ s.phase = .initBusy ∨ s.phase = .blockBusy := by
  simp [State.busy]

end Sys2Proof.Machine
end

