-- ==== Sys2Proof/Laws/Ops.lean ====
section
/-! SUPPORT. What each shared operation can do, said once. -/

namespace Sys2Proof.Machine

@[simp] theorem State.checkReserved_true (s body : State) : s.checkReserved true body = body := rfl

@[simp] theorem State.checkReserved_false (s body : State) :
    s.checkReserved false body = s.fail .illegalCmd .reservedBits := rfl

/-- The reserved-bit check lets the command run or fails (30_encoding R69). -/
theorem State.checkReserved_cases (s : State) (clear : Bool) (body : State) :
    (clear = true ∧ s.checkReserved clear body = body) ∨
      (clear = false ∧ s.checkReserved clear body = s.fail .illegalCmd .reservedBits) := by
  cases clear <;> simp

theorem State.checkBusy_idle (s body : State) (h : s.busy = false) : s.checkBusy body = body := by
  simp [State.checkBusy, h]

theorem State.checkBusy_busy (s body : State) (h : s.busy = true) : s.checkBusy body = s.fail .busy .none := by
  simp [State.checkBusy, h]

/-- The busy check lets the operation run or fails (60_exceptions R131). -/
theorem State.checkBusy_cases (s body : State) :
    (s.busy = false ∧ s.checkBusy body = body) ∨ (s.busy = true ∧ s.checkBusy body = s.fail .busy .none) := by
  cases h : s.busy <;> simp [State.checkBusy, h]

/-- `IR_DATA` after the busy check: full, or one sample appended (40_setup R78). -/
theorem State.appendIr_cases (s : State) (d : Word) :
    (Config.nMax ≤ s.irWptr.toNat ∧ s.appendIr d = s.fail .capacity .irFull) ∨
      (s.irWptr.toNat < Config.nMax ∧ s.appendIr d =
        State.succeed { s with irbuf := Memory.write s.irbuf s.irWptr.toNat d, irWptr := s.irWptr + 1#32 }) := by
  unfold State.appendIr
  split
  · next h => exact .inl ⟨h, rfl⟩
  · next h => exact .inr ⟨by omega, rfl⟩

/-- `DIN` after the busy check: not initialized, or one push (41_streaming R88). -/
theorem State.tryPush_cases (s : State) (d : Word) :
    (s.phase = .uninit ∧ s.tryPush d = s.fail .notInit .none) ∨
      (s.phase ≠ .uninit ∧ s.tryPush d = (s.acceptPush d).succeed) := by
  unfold State.tryPush
  split
  · next h => exact .inl ⟨h, rfl⟩
  · next h => exact .inr ⟨h, rfl⟩

/-- `INIT` after the busy check: accepted, or rejected with a code that is not `OK` (40_setup R79, R82). -/
theorem State.tryInit_cases (s : State) (mode : BitVec 4) :
    ((initCheck Config.caps mode s.cfgB s.cfgN s.irWptr).1 = .ok ∧ s.tryInit mode = s.acceptInit.succeed) ∨
      ∃ c x, initCheck Config.caps mode s.cfgB s.cfgN s.irWptr = (c, x) ∧ c ≠ .ok ∧ s.tryInit mode = s.fail c x := by
  unfold State.tryInit
  split
  · next c h => exact .inl ⟨by rw [h], rfl⟩
  · next c x hne h =>
    exact .inr ⟨c, x, h, hne, rfl⟩

/-- The checks an accepted `INIT` has passed (40_setup R80). -/
theorem initCheck_ok (caps : Caps) (mode : BitVec 4) (cfgB cfgN irCount : Word)
    (h : (initCheck caps mode cfgB cfgN irCount).1 = .ok) :
    mode ≠ 0#4 ∧ mode.toNat < 2 ∧ 0 < int32 cfgB ∧ (int32 cfgB).toNat &&& ((int32 cfgB).toNat - 1) = 0 ∧
      int32 cfgB ≤ caps.bMax ∧ 0 < int32 cfgN ∧ int32 cfgN ≤ caps.nMax ∧
      blockCount (int32 cfgN).toNat (int32 cfgB).toNat * 2 * (int32 cfgB).toNat ≤ caps.specWords ∧
      (irCount.toNat : Int) = int32 cfgN ∧ initCheck caps mode cfgB cfgN irCount = (.ok, .none) := by
  revert h
  unfold initCheck
  dsimp only
  repeat' split
  all_goals intro h
  all_goals first | cases h; done | skip
  next h0 h1 h2 h3 h4 h5 h6 h7 h8 =>
    exact ⟨h0, by omega, by omega, not_not.mp h3, by omega, by omega, by omega, by omega, not_not.mp h8, rfl⟩

/-- Every host operation completes: there is no trap, fault or refusal in one (60_exceptions R125, R129). -/
theorem exec_completes (i : Instr) (s : State) : ∃ t, exec i s = .next t := by
  cases i <;> exact ⟨_, rfl⟩

end Sys2Proof.Machine
end

