-- ==== Sys2Proof/Laws/Exec.lean ====
section
/-! SUPPORT. Everything a write operation can do, said once: it fails and updates the status fields, or it is one of the
accepted operations. -/

namespace Sys2Proof.Machine

theorem plainCommandBitsClear_iff (rsv : BitVec 20) (mode : BitVec 4) :
    plainCommandBitsClear rsv mode = true ↔ rsv = 0#20 ∧ mode = 0#4 := by
  simp [plainCommandBitsClear]

theorem initBitsClear_iff (rsv : BitVec 20) : initBitsClear rsv = true ↔ rsv = 0#20 := by
  simp [initBitsClear]

/-- A check that lets `body` run or fails with a code that is not `OK`. -/
theorem State.checks_cases (s body : State) (clear : Bool) :
    (clear = true ∧ s.busy = false ∧ s.checkReserved clear (s.checkBusy body) = body) ∨
      ∃ c x, c ≠ .ok ∧ s.checkReserved clear (s.checkBusy body) = s.fail c x := by
  rcases State.checkReserved_cases s clear (s.checkBusy body) with ⟨hc, e⟩ | ⟨_, e⟩
  · rcases State.checkBusy_cases s body with ⟨hb, e'⟩ | ⟨_, e'⟩
    · exact .inl ⟨hc, hb, by rw [e, e']⟩
    · exact .inr ⟨.busy, .none, by decide, by rw [e, e']⟩
  · exact .inr ⟨.illegalCmd, .reservedBits, by decide, e⟩

/-- What a write operation can do (60_exceptions R127, R131, and the rules of the accepted operations). -/
inductive WriteEffect (s : State) : Instr → State → Prop where
  | failed (i : Instr) (c : Result) (x : Cause) : Reporting i = true → c ≠ .ok → WriteEffect s i (s.written.fail c x)
  | nop : WriteEffect s (.nop 0#20 0#4) s.written.succeed
  | init (mode : BitVec 4) : s.busy = false → (initCheck Config.caps mode s.cfgB s.cfgN s.irWptr).1 = .ok →
      WriteEffect s (.init 0#20 mode) s.written.acceptInit.succeed
  | reset : s.busy = false → WriteEffect s (.reset 0#20 0#4) s.written.resetCommand
  | irBegin : s.busy = false →
      WriteEffect s (.irBegin 0#20 0#4) (State.succeed { s.written with irWptr := 0x00000000#32 })
  | clrErr : WriteEffect s (.clrErr 0#20 0#4) (State.succeed { s.written with errSticky := false, overrun := false })
  | irData (d : Word) : s.busy = false → s.irWptr.toNat < Config.nMax → WriteEffect s (.wrIrData d)
      (State.succeed
        { s.written with irbuf := Memory.write s.irbuf s.irWptr.toNat d, irWptr := s.irWptr + 1#32 })
  | din (d : Word) : s.phase = .ready → WriteEffect s (.wrDin d) (s.written.acceptPush d).succeed
  | cfgB (d : Word) : WriteEffect s (.wrCfgB d) { s.written with cfgB := d }
  | cfgN (d : Word) : WriteEffect s (.wrCfgN d) { s.written with cfgN := d }
  | dbgSel (d : Word) : WriteEffect s (.wrDbgSel d) { s.written with dbgSel := d }
  | ignored (off : BitVec 8) (d : Word) : WriteEffect s (.other off d) s.written

theorem exec_write_effect (i : Instr) (s t : State) (hw : IsRead i = false) (h : exec i s = .next t) :
    WriteEffect s i t := by
  cases i <;> simp only [IsRead] at hw <;> first | (cases hw; done) | skip
  case nop r m =>
    injection h with h
    rcases State.checkReserved_cases s.written (plainCommandBitsClear r m) s.written.succeed with ⟨hc, e⟩ | ⟨_, e⟩
    · obtain ⟨rfl, rfl⟩ := (plainCommandBitsClear_iff r m).mp hc
      rw [← h, e]; exact .nop
    · rw [← h, e]; exact .failed _ _ _ rfl (by decide)
  case init r m =>
    injection h with h
    rcases State.checks_cases s.written (s.written.tryInit m) (initBitsClear r) with ⟨hc, hb, e⟩ | ⟨c, x, hne, e⟩
    · obtain rfl := (initBitsClear_iff r).mp hc
      rcases State.tryInit_cases s.written m with ⟨hk, e'⟩ | ⟨c, x, _, hne, e'⟩
      · rw [← h, e, e']; exact .init m hb hk
      · rw [← h, e, e']; exact .failed _ _ _ rfl hne
    · rw [← h, e]; exact .failed _ _ _ rfl hne
  case reset r m =>
    injection h with h
    rcases State.checks_cases s.written s.written.resetCommand (plainCommandBitsClear r m) with
      ⟨hc, hb, e⟩ | ⟨c, x, hne, e⟩
    · obtain ⟨rfl, rfl⟩ := (plainCommandBitsClear_iff r m).mp hc
      rw [← h, e]; exact .reset hb
    · rw [← h, e]; exact .failed _ _ _ rfl hne
  case irBegin r m =>
    injection h with h
    rcases State.checks_cases s.written (State.succeed { s.written with irWptr := 0x00000000#32 })
      (plainCommandBitsClear r m) with ⟨hc, hb, e⟩ | ⟨c, x, hne, e⟩
    · obtain ⟨rfl, rfl⟩ := (plainCommandBitsClear_iff r m).mp hc
      rw [← h, e]; exact .irBegin hb
    · rw [← h, e]; exact .failed _ _ _ rfl hne
  case clrErr r m =>
    injection h with h
    rcases State.checkReserved_cases s.written (plainCommandBitsClear r m)
      (State.succeed { s.written with errSticky := false, overrun := false }) with ⟨hc, e⟩ | ⟨_, e⟩
    · obtain ⟨rfl, rfl⟩ := (plainCommandBitsClear_iff r m).mp hc
      rw [← h, e]; exact .clrErr
    · rw [← h, e]; exact .failed _ _ _ rfl (by decide)
  case cmdIllegal opc r m => injection h with h; rw [← h]; exact .failed _ _ _ rfl (by decide)
  case wrCfgB d => injection h with h; rw [← h]; exact .cfgB d
  case wrCfgN d => injection h with h; rw [← h]; exact .cfgN d
  case wrDbgSel d => injection h with h; rw [← h]; exact .dbgSel d
  case other off d => injection h with h; rw [← h]; exact .ignored off d
  case wrIrData d =>
    injection h with h
    rcases State.checkBusy_cases s.written (s.written.appendIr d) with ⟨hb, e⟩ | ⟨_, e⟩
    · rcases State.appendIr_cases s.written d with ⟨_, e'⟩ | ⟨hn, e'⟩
      · rw [← h, e, e']; exact .failed _ _ _ rfl (by decide)
      · rw [← h, e, e']; exact .irData d hb hn
    · rw [← h, e]; exact .failed _ _ _ rfl (by decide)
  case wrDin d =>
    injection h with h
    rcases State.checkBusy_cases s.written (s.written.tryPush d) with ⟨hb, e⟩ | ⟨_, e⟩
    · rcases State.tryPush_cases s.written d with ⟨_, e'⟩ | ⟨hn, e'⟩
      · rw [← h, e, e']; exact .failed _ _ _ rfl (by decide)
      · rw [← h, e, e']
        refine .din d ?_
        rw [State.written_phase] at hn
        rw [State.busy_written] at hb
        unfold State.busy at hb
        revert hb hn
        cases s.phase <;> simp
    · rw [← h, e]; exact .failed _ _ _ rfl (by decide)

end Sys2Proof.Machine
end

