-- ==== Sys2Proof/Laws/PerInstr.lean ====
section
/-! SUPPORT. A law of every host operation as syntax: a well-formed one has a key at an aligned offset
(30_encoding R63, 20_memory R52), so the host can issue it. -/

namespace Sys2Proof.Laws.Aligned

/-- The key of a well-formed operation has an aligned offset. -/
def Statement (i : Instr) : Prop := i.wellFormed = true → alignedOffset (keyOff (encodeKey i)) = true

theorem nop (rsv : BitVec 20) (mode : BitVec 4) : Statement (.nop rsv mode) := by
  intro _; rw [encodeKey, keyOff_mkKey]; decide

theorem init (rsv : BitVec 20) (mode : BitVec 4) : Statement (.init rsv mode) := by
  intro _; rw [encodeKey, keyOff_mkKey]; decide

theorem reset (rsv : BitVec 20) (mode : BitVec 4) : Statement (.reset rsv mode) := by
  intro _; rw [encodeKey, keyOff_mkKey]; decide

theorem irBegin (rsv : BitVec 20) (mode : BitVec 4) : Statement (.irBegin rsv mode) := by
  intro _; rw [encodeKey, keyOff_mkKey]; decide

theorem clrErr (rsv : BitVec 20) (mode : BitVec 4) : Statement (.clrErr rsv mode) := by
  intro _; rw [encodeKey, keyOff_mkKey]; decide

theorem cmdIllegal (opc : BitVec 8) (rsv : BitVec 20) (mode : BitVec 4) : Statement (.cmdIllegal opc rsv mode) := by
  intro _; rw [encodeKey, keyOff_mkKey]; decide

theorem wrCfgB (data : Word) : Statement (.wrCfgB data) := by
  intro _; rw [encodeKey, keyOff_mkKey]; decide

theorem wrCfgN (data : Word) : Statement (.wrCfgN data) := by
  intro _; rw [encodeKey, keyOff_mkKey]; decide

theorem wrIrData (data : Word) : Statement (.wrIrData data) := by
  intro _; rw [encodeKey, keyOff_mkKey]; decide

theorem wrDin (data : Word) : Statement (.wrDin data) := by
  intro _; rw [encodeKey, keyOff_mkKey]; decide

theorem wrDbgSel (data : Word) : Statement (.wrDbgSel data) := by
  intro _; rw [encodeKey, keyOff_mkKey]; decide

theorem rdId : Statement .rdId := by
  intro _; rw [encodeKey, keyOff_mkKey]; decide

theorem rdStatus : Statement .rdStatus := by
  intro _; rw [encodeKey, keyOff_mkKey]; decide

theorem rdCfgB : Statement .rdCfgB := by
  intro _; rw [encodeKey, keyOff_mkKey]; decide

theorem rdCfgN : Statement .rdCfgN := by
  intro _; rw [encodeKey, keyOff_mkKey]; decide

theorem rdIrWptr : Statement .rdIrWptr := by
  intro _; rw [encodeKey, keyOff_mkKey]; decide

theorem rdDout : Statement .rdDout := by
  intro _; rw [encodeKey, keyOff_mkKey]; decide

theorem rdTailLen : Statement .rdTailLen := by
  intro _; rw [encodeKey, keyOff_mkKey]; decide

theorem rdNumBlocks : Statement .rdNumBlocks := by
  intro _; rw [encodeKey, keyOff_mkKey]; decide

theorem rdActB : Statement .rdActB := by
  intro _; rw [encodeKey, keyOff_mkKey]; decide

theorem rdActN : Statement .rdActN := by
  intro _; rw [encodeKey, keyOff_mkKey]; decide

theorem rdIndexInBlock : Statement .rdIndexInBlock := by
  intro _; rw [encodeKey, keyOff_mkKey]; decide

theorem rdHistCursor : Statement .rdHistCursor := by
  intro _; rw [encodeKey, keyOff_mkKey]; decide

theorem rdDbgSel : Statement .rdDbgSel := by
  intro _; rw [encodeKey, keyOff_mkKey]; decide

theorem rdDbgData : Statement .rdDbgData := by
  intro _; rw [encodeKey, keyOff_mkKey]; decide

theorem rdCmd : Statement .rdCmd := by
  intro _; rw [encodeKey, keyOff_mkKey]; decide

theorem rdIrData : Statement .rdIrData := by
  intro _; rw [encodeKey, keyOff_mkKey]; decide

theorem rdDin : Statement .rdDin := by
  intro _; rw [encodeKey, keyOff_mkKey]; decide

theorem rdOther (off : BitVec 8) : Statement (.rdOther off) := by
  intro h; simp [Instr.wellFormed] at h; simpa [encodeKey] using h.1

theorem other (off : BitVec 8) (data : Word) : Statement (.other off data) := by
  intro h; simp [Instr.wellFormed] at h; simpa [encodeKey] using h.1

end Sys2Proof.Laws.Aligned
end

