-- ==== Sys2Proof/Laws/Reference.lean ====
section
/-! SUPPORT. The reference FFT on words: lengths, and that rounding a real agrees with rounding an integer count of units,
so that the reference words can be compared with the block's arithmetic. -/

namespace Sys2Proof.Machine

@[simp] theorem packSpectrum_length (l : Nat) (X : Nat → ℂ) : (packSpectrum l X).length = l := by simp [packSpectrum]

@[simp] theorem refForward_length (v : List ℝ) : (refForward v).length = v.length := by simp [refForward]

@[simp] theorem refInverse_length (c : List ℝ) : (refInverse c).length = c.length := by simp [refInverse]

/-- Rounding `n / 2^k` as a real is rounding it as a division. -/
theorem roundHalfEven_div (n k : Nat) : roundHalfEven ((n : ℝ) / 2 ^ k) = roundDiv n k := by
  have pos : (0 : ℝ) < 2 ^ k := by positivity
  have floor : ⌊(n : ℝ) / 2 ^ k⌋₊ = n / 2 ^ k := by
    rw [show ((2 : ℝ) ^ k) = ((2 ^ k : ℕ) : ℝ) by push_cast; rfl, Nat.floor_div_eq_div]
  have split : (n : ℝ) / 2 ^ k - (n / 2 ^ k : ℕ) = (n % 2 ^ k : ℕ) / 2 ^ k := by
    have h : ((2 ^ k : ℕ) : ℝ) * (n / 2 ^ k : ℕ) + (n % 2 ^ k : ℕ) = n := by exact_mod_cast Nat.div_add_mod n (2 ^ k)
    push_cast at h
    field_simp
    linarith
  have above : (1 / 2 : ℝ) < (n % 2 ^ k : ℕ) / 2 ^ k ↔ 2 ^ k < 2 * (n % 2 ^ k) := by
    rw [lt_div_iff₀ pos, ← Nat.cast_lt (α := ℝ)]
    push_cast
    constructor <;> intro h <;> linarith
  have tie : ((n % 2 ^ k : ℕ) : ℝ) / 2 ^ k = 1 / 2 ↔ 2 * (n % 2 ^ k) = 2 ^ k := by
    rw [div_eq_iff pos.ne', ← Nat.cast_inj (R := ℝ)]
    push_cast
    constructor <;> intro h <;> linarith
  simp only [roundHalfEven, roundDiv, floor, split, above, tie]

/-- A whole number of units of `2^-149` is rounded as the block's addition rounds its exact sum. -/
theorem roundReal_units (v : Int) : roundReal ((v : ℝ) / 2 ^ 149) = fpPack (decide (v < 0)) (roundBits v.natAbs 0) := by
  have units : |(v : ℝ) / 2 ^ 149| * 2 ^ 149 = (v.natAbs : ℝ) := by
    rw [abs_div, abs_of_pos (show (0 : ℝ) < 2 ^ 149 by positivity), div_mul_cancel₀ _ (by positivity), Nat.cast_natAbs,
      Int.cast_abs]
  have sign : (v : ℝ) / 2 ^ 149 < 0 ↔ v < 0 := by
    rw [div_neg_iff]
    constructor
    · rintro (⟨_, h⟩ | ⟨h, _⟩)
      · exact absurd h (not_lt.mpr (by positivity))
      · exact_mod_cast h
    · intro h
      exact .inr ⟨by exact_mod_cast h, by positivity⟩
  simp only [roundReal, units, sign, Nat.floor_natCast, roundHalfEven_div, roundBits, Nat.max_eq_right (Nat.zero_le _),
    Nat.sub_zero]

/-- An exact zero is `+0.0` (00_scope R16). -/
@[simp] theorem roundReal_zero : roundReal 0 = plusZero := by
  have h := roundReal_units 0
  rw [Int.cast_zero, zero_div] at h
  rw [h]
  decide

@[simp] theorem roundedTransform_length (f : List ℝ → List ℝ) (free : List Word → Nat → Word) (v : List Word)
    (h : ∀ u : List ℝ, (f u).length = u.length) : (roundedTransform f free v).length = v.length := by
  unfold roundedTransform
  split <;> simp [h]

end Sys2Proof.Machine
end

