-- ==== Sys2Proof/Laws/Step.lean ====
section
/-! SUPPORT. Everything a step can do, said once. -/

namespace Sys2Proof.Machine

/-- An access that completes: a host operation with a key, or an access outside the window (20_memory R49). -/
theorem hostAccess_next (a : Access) (s t : State) (h : hostAccess a s = .next t) :
    (∃ k, accessKey a = .ok k ∧ exec (decodeKey k) s = .next t) ∨
      (accessKey a = .error .outsideWindow ∧ t = s) := by
  unfold hostAccess decodeAccess at h
  cases hk : accessKey a with
  | ok k => exact .inl ⟨k, rfl, by simpa [hk] using h⟩
  | error e =>
    cases e with
    | outsideWindow => simp [hk] at h; exact .inr ⟨rfl, h.symm⟩
    | width => simp [hk] at h
    | alignment => simp [hk] at h

/-- The cases of a step that answers a next state (20_memory R57): the engine moves; the host waits; a hardware reset;
a host operation with a key; an access outside the window. After each it is settled who moves next. -/
theorem step_cases (s t : State) (h : step s = .next t) :
    (s.busy = true ∧ s.turn = .engine ∧ t = s.engineStep.drawTurn) ∨
      (s.pending = [] ∧ t = s.drawTurn) ∨
      (∃ rest, s.pending = .hardwareReset :: rest ∧
        t = (State.hardwareReset { s with pending := rest }).drawTurn) ∨
      (∃ a rest k u, s.pending = .access a :: rest ∧ accessKey a = .ok k ∧
        exec (decodeKey k) { s with pending := rest } = .next u ∧ t = u.drawTurn) ∨
      (∃ a rest, s.pending = .access a :: rest ∧ accessKey a = .error .outsideWindow ∧
        t = State.drawTurn { s with pending := rest }) := by
  unfold step machineStep at h
  split at h
  · next hb => cases h; exact .inl ⟨hb.1, hb.2, rfl⟩
  · right
    unfold hostStep at h
    split at h
    · next hp => cases h; exact .inl ⟨hp, rfl⟩
    · right
      next ev rest hp =>
        cases ev with
        | hardwareReset => cases h; exact .inl ⟨rest, hp, rfl⟩
        | overlappingAccess => cases h
        | strayFftBeat w => cases h
        | access a =>
          right
          simp only [hostEvent] at h
          cases ho : hostAccess a { s with pending := rest } with
          | fault f => rw [ho] at h; cases h
          | refused r => rw [ho] at h; cases h
          | next u =>
            rw [ho] at h
            cases h
            rcases hostAccess_next a _ u ho with ⟨k, hk, hx⟩ | ⟨hk, rfl⟩
            · exact .inl ⟨a, rest, k, u, hp, hk, hx, rfl⟩
            · exact .inr ⟨a, rest, hp, hk, rfl⟩

/-- Placing a key makes it the next operation to run (log entry 4). -/
theorem step_placeKey (s : State) (k : Key) (h : alignedOffset (keyOff k) = true)
    (hd : keyW k = true ∨ keyData k = 0#32) :
    step (placeKey s k) = thenDrawTurn (exec (decodeKey k) { s with turn := .host }) := by
  have hk := accessKey_accessOfKey k h hd
  have hn : ¬((placeKey s k).busy = true ∧ (placeKey s k).turn = .engine) := by simp
  rw [step, machineStep, if_neg hn]
  simp only [hostStep, placeKey_pending, hostEvent, hostAccess, decodeAccess, hk]
  rfl

end Sys2Proof.Machine
end

