-- ==== Sys2Proof/Machine/Assembly.lean ====
section
/-! DEFINITION. The register map by name (10_state R20) and the host assembly syntax as terms (30_encoding R73): what one
line of a host program puts on the port. Nothing here is part of a step. -/

namespace Sys2Proof.Machine

/-- The registers of 10_state R20, in the order of their offsets. -/
inductive Reg where
  | id | cmd | status | cfgB | cfgN | irWptr | irData | din | dout | tailLen | numBlocks | actB | actN
  | indexInBlock | histCursor | dbgSel | dbgData
  deriving DecidableEq, Repr

/-- The access kinds of 10_state R20. -/
inductive RegAccess where
  | ro | wo | rw | rc
  deriving DecidableEq, Repr

/-- The byte offset of a register (10_state R20). -/
def Reg.offset : Reg → BitVec 8
  | .id => 0x00
  | .cmd => 0x04
  | .status => 0x08
  | .cfgB => 0x10
  | .cfgN => 0x14
  | .irWptr => 0x18
  | .irData => 0x1C
  | .din => 0x20
  | .dout => 0x24
  | .tailLen => 0x28
  | .numBlocks => 0x2C
  | .actB => 0x30
  | .actN => 0x34
  | .indexInBlock => 0x38
  | .histCursor => 0x3C
  | .dbgSel => 0x40
  | .dbgData => 0x44

/-- The access kind of a register (10_state R20). -/
def Reg.access : Reg → RegAccess
  | .cmd | .irData | .din => .wo
  | .cfgB | .cfgN | .dbgSel => .rw
  | .dout => .rc
  | .id | .status | .irWptr | .tailLen | .numBlocks | .actB | .actN | .indexInBlock | .histCursor | .dbgData => .ro

/-- The five commands by name (30_encoding R66). -/
inductive Command where
  | nop | init | reset | irBegin | clrErr
  deriving DecidableEq, Repr

/-- `OPC` of a command (30_encoding R66). -/
def Command.opcode : Command → BitVec 8
  | .nop => 0x00
  | .init => 0x01
  | .reset => 0x02
  | .irBegin => 0x03
  | .clrErr => 0x04

/-- A `<value>` of 30_encoding R73: a hexadecimal word, a decimal integer, or a real written with a decimal point, given
by its sign, its digits and how many of them follow the point. -/
inductive AsmValue where
  | hex (w : Word)
  | int (i : Int)
  | real (neg : Bool) (digits places : Nat)
  deriving DecidableEq, Repr

/-- One line of host assembly (30_encoding R73); `mode` is the optional `MODE=<m>`. -/
inductive AsmOp where
  | wr (r : Reg) (v : AsmValue)
  | rd (r : Reg)
  | cmd (c : Command) (mode : Option (BitVec 4))
  deriving DecidableEq, Repr

/-- The word of a value: an integer as its two's-complement word, a real as its binary32 word, which must be exact. -/
def AsmValue.word : AsmValue → Option Word
  | .hex w => some w
  | .int i => some (BitVec.ofInt 32 i)
  | .real neg digits places =>
    let w := fpPack neg (roundBits (digits * 2 ^ 149 / 10 ^ places) 0)
    if fpIsFinite w ∧ fpMagnitude w * 10 ^ places = digits * 2 ^ 149 then some w else none

/-- The key of a line (30_encoding R63, R65, R73). An omitted `MODE=<m>` encodes `MODE = 0`. For a command other than
`INIT` that is the only value R65 allows. For `INIT` it is a DESIGN CHOICE (log entry 23): R73 gives no default and R67
says there is none in the command word; the block then rejects the command as `MODE_UNSUPPORTED`. -/
def AsmOp.key : AsmOp → Option Key
  | .wr r v => v.word.map fun d => mkKey true r.offset d
  | .rd r => some (mkKey false r.offset 0#32)
  | .cmd c mode => some (mkKey true 0x04#8 (mkCmd c.opcode 0#20 (mode.getD 0#4)))

end Sys2Proof.Machine
end

