-- ==== Sys2Proof/Tests/Slice0.lean ====
section
/-! SUPPORT. Tests with results from the spec (each names its vector), and for every statement with hypotheses a concrete
case that meets them. -/

namespace Sys2Proof.Tests

open Sys2Proof.Machine

/-! ## WellFormed: an ill-formed term for each check -/

theorem test_illformed_legal_opcode_as_illegal : (Instr.cmdIllegal 0x04#8 0#20 0#4).wellFormed = false := by decide
theorem test_illformed_unaligned_read : (Instr.rdOther 0x4A#8).wellFormed = false := by decide
theorem test_illformed_mapped_read : (Instr.rdOther 0x44#8).wellFormed = false := by decide
theorem test_illformed_unaligned_write : (Instr.other 0x0D#8 0#32).wellFormed = false := by decide
theorem test_illformed_mapped_write : (Instr.other 0x40#8 0#32).wellFormed = false := by decide
theorem test_wellformed_reserved_offset : (Instr.rdOther 0x0C#8).wellFormed = true := by decide

/-! ## Decoding: keys of 95_test_vectors 2.1 and 3, and one key per remaining row from 10_state R20 -/

theorem test_decode_nop : decodeKey 0x10400000000#41 = .nop 0#20 0#4 := by decide
theorem test_decode_nop_reserved : decodeKey 0x10400000010#41 = .nop 1#20 0#4 := by decide
theorem test_decode_init : decodeKey 0x10401000001#41 = .init 0#20 1#4 := by decide
theorem test_decode_reset : decodeKey 0x10402000001#41 = .reset 0#20 1#4 := by decide
theorem test_decode_irBegin : decodeKey 0x10403000000#41 = .irBegin 0#20 0#4 := by decide
theorem test_decode_clrErr : decodeKey 0x10404000100#41 = .clrErr 0x10#20 0#4 := by decide
theorem test_decode_cmdIllegal : decodeKey 0x10405000000#41 = .cmdIllegal 0x05#8 0#20 0#4 := by decide
theorem test_decode_wrCfgB : decodeKey 0x11000000002#41 = .wrCfgB 2#32 := by decide
theorem test_decode_wrCfgN : decodeKey 0x11400000002#41 = .wrCfgN 2#32 := by decide
theorem test_decode_wrIrData : decodeKey 0x11C40400000#41 = .wrIrData 0x40400000#32 := by decide
theorem test_decode_wrDin : decodeKey 0x1203F800000#41 = .wrDin 0x3F800000#32 := by decide
theorem test_decode_wrDbgSel : decodeKey 0x14030000000#41 = .wrDbgSel 0x30000000#32 := by decide
theorem test_decode_rdId : decodeKey 0x00000000000#41 = .rdId := by decide
theorem test_decode_rdStatus : decodeKey 0x00800000000#41 = .rdStatus := by decide
theorem test_decode_rdCfgB : decodeKey 0x01000000000#41 = .rdCfgB := by decide
theorem test_decode_rdCfgN : decodeKey 0x01400000000#41 = .rdCfgN := by decide
theorem test_decode_rdIrWptr : decodeKey 0x01800000000#41 = .rdIrWptr := by decide
theorem test_decode_rdDout : decodeKey 0x02400000000#41 = .rdDout := by decide
theorem test_decode_rdTailLen : decodeKey 0x02800000000#41 = .rdTailLen := by decide
theorem test_decode_rdNumBlocks : decodeKey 0x02C00000000#41 = .rdNumBlocks := by decide
theorem test_decode_rdActB : decodeKey 0x03000000000#41 = .rdActB := by decide
theorem test_decode_rdActN : decodeKey 0x03400000000#41 = .rdActN := by decide
theorem test_decode_rdIndexInBlock : decodeKey 0x03800000000#41 = .rdIndexInBlock := by decide
theorem test_decode_rdHistCursor : decodeKey 0x03C00000000#41 = .rdHistCursor := by decide
theorem test_decode_rdDbgSel : decodeKey 0x04000000000#41 = .rdDbgSel := by decide
theorem test_decode_rdDbgData : decodeKey 0x04400000000#41 = .rdDbgData := by decide
theorem test_decode_rdCmd : decodeKey 0x00400000000#41 = .rdCmd := by decide
theorem test_decode_rdIrData : decodeKey 0x01C00000000#41 = .rdIrData := by decide
theorem test_decode_rdDin : decodeKey 0x02000000000#41 = .rdDin := by decide
theorem test_decode_rdOther : decodeKey 0x0FC00000000#41 = .rdOther 0xFC#8 := by decide
theorem test_decode_other : decodeKey 0x10C12345678#41 = .other 0x0C#8 0x12345678#32 := by decide
theorem test_table_agrees_on_status : tableDecode 0x00800000000#41 = some .rdStatus := by decide
theorem test_bad_width_named : decodeAccess ⟨0x20, 8, true, 0#32⟩ = .error .width := by rfl
theorem test_bad_alignment_named : decodeAccess ⟨0x22, 32, false, 0#32⟩ = .error .alignment := by rfl
theorem test_outside_window_named : decodeAccess ⟨0x100, 32, false, 0#32⟩ = .error .outsideWindow := by rfl
theorem test_table_word_out_of_range : decodeTableWord 48 0x20000000000 = none := by decide

/-! ## Host assembly (keys of 95_test_vectors 3.4 and 3.1) -/

theorem test_asm_din : (AsmOp.wr .din (.real false 10 1)).key = some 0x1203F800000#41 := by decide +kernel
theorem test_asm_inexact : (AsmOp.wr .din (.real false 1 1)).key = none := by decide +kernel
theorem test_asm_cfgB : (AsmOp.wr .cfgB (.int 8)).key = some 0x11000000008#41 := by decide
theorem test_asm_init : (AsmOp.cmd .init (some 1#4)).key = some 0x10401000001#41 := by decide
theorem test_asm_nop : (AsmOp.cmd .nop none).key = some 0x10400000000#41 := by decide
theorem test_asm_tail : (AsmOp.rd .tailLen).key = some 0x02800000000#41 := by decide

/-! ## Binary32 (values of 95_test_vectors 2.3 and its table of words) -/

theorem test_add_tie_to_even_down : fadd 0x3F800000#32 0x33800000#32 = 0x3F800000#32 := by decide +kernel
theorem test_add_tie_to_even_up : fadd 0x3F800001#32 0x33800000#32 = 0x3F800002#32 := by decide +kernel
theorem test_add_minus_zero : fadd 0x80000000#32 0x80000000#32 = 0x80000000#32 := by decide +kernel
theorem test_add_zero_signs : fadd 0x00000000#32 0x80000000#32 = 0x00000000#32 := by decide +kernel
theorem test_sub_values : fsub 0x40400000#32 0x40A00000#32 = 0xC0000000#32 := by decide +kernel
theorem test_mul_overflow : fmul 0x7F000000#32 0x40000000#32 = 0x7F800000#32 := by decide +kernel
theorem test_mul_subnormal : fmul 0x00000001#32 0x40000000#32 = 0x00000002#32 := by decide +kernel
theorem test_mul_inf_zero : fmul 0x7F800000#32 0x00000000#32 = Config.nanResult := by rfl
theorem test_scale_factor : fpOfNat 4 = 0x40800000#32 := by decide +kernel

/-- `0.25` and `-1.0`, rounded from the reals (words of 95_test_vectors 3). -/
theorem test_round_real : roundReal (1 / 4) = 0x3E800000#32 ∧ roundReal (-1) = 0xBF800000#32 := by
  have quarter := roundReal_units (2 ^ 147)
  have minusOne := roundReal_units (-2 ^ 149)
  rw [show (((2 ^ 147 : Int) : ℝ) / 2 ^ 149) = 1 / 4 by push_cast; norm_num] at quarter
  rw [show (((-2 ^ 149 : Int) : ℝ) / 2 ^ 149) = -1 by push_cast; norm_num] at minusOne
  exact ⟨quarter.trans (by decide +kernel), minusOne.trans (by decide +kernel)⟩

/-! ## The engine, on the vectors of 95_test_vectors 2.3 -/

/-- The reference FFT of length 4 on words (00_scope R17), exact on the vectors used. -/
def fwd4 : List Word → List Word
  | [a, b, c, d] =>
    let q := 0x3E800000#32
    [fmul (fadd (fadd a b) (fadd c d)) q, fmul (fsub a c) q, fmul (fadd (fsub a b) (fsub c d)) q, fmul (fsub d b) q]
  | v => v

/-- `INV_4` (00_scope R17). -/
def inv4 : List Word → List Word
  | [a, b, c, d] =>
    let two := 0x40000000#32
    [fadd (fadd a (fmul two b)) c, fsub (fsub a c) (fmul two d), fadd (fsub a (fmul two b)) c, fadd (fsub a c) (fmul two d)]
  | v => v

/-- The binary32 datapath with the reference FFT of length 4. -/
def refDatapath : Datapath Word where
  zero := plusZero
  add := fadd
  sub := fsub
  mul := fmul
  scale := fpOfNat
  fwd := fwd4
  inv := inv4
  unwritten := fun _ _ => 0#32

/-- A memory holding the words. -/
def memOf (l : List Word) : Memory Word := Memory.writeAll [] 0 l

/-- An engine with one block. -/
def engineOf (b iib : Nat) (h x acc saved : List Word) : Engine Word :=
  { b := b, n := b, nb := 1, iib := iib, hcur := 0, irspec := memOf h, hist := memOf x, acc := memOf acc
    saved := memOf saved, port := [] }

/-- `PMAC` row 1: `H = [1,2,3,4]`, `X = [0.5,1,-1,2]`, `ACC = 0` gives `[2,-24,-12,32]`. -/
theorem test_pmac_complex_bins :
    ((pmac refDatapath (engineOf 2 0 [0x3F800000, 0x40000000, 0x40400000, 0x40800000]
      [0x3F000000, 0x3F800000, 0xBF800000, 0x40000000] [0, 0, 0, 0] []) 0 0).acc).map (fun p => p.2) =
      [0x40000000#32, 0xC1C00000#32, 0xC1400000#32, 0x42000000#32] := by decide +kernel

/-- `PMAC` row 4: minus zeros stay minus zeros. -/
theorem test_pmac_minus_zero :
    ((pmac refDatapath (engineOf 1 0 [0xBF800000, 0x3F800000] [0, 0x80000000] [0x80000000, 0x80000000] []) 0 0).acc).map
      (fun p => p.2) = [0x80000000#32, 0x80000000#32] := by decide +kernel

/-- The block flush of 95_test_vectors 2.3: `h = [0, 1]`, block `[1, 2]` gives `ACC = [0, 1, 2, 0]`. -/
theorem test_flush_accumulator :
    ((blockFlush refDatapath (engineOf 2 2 [0x3E800000, 0, 0xBE800000, 0xBE800000] [0x3F800000, 0x40000000, 0, 0]
      [0, 0, 0, 0] [0, 0])).acc).map (fun p => p.2) = [0#32, 0x3F800000#32, 0x40000000#32, 0#32] := by decide +kernel

/-- The same flush: `HIST[0] = [0.75, 0.25, -0.25, -0.5]`. -/
theorem test_flush_history :
    ((blockFlush refDatapath (engineOf 2 2 [0x3E800000, 0, 0xBE800000, 0xBE800000] [0x3F800000, 0x40000000, 0, 0]
      [0, 0, 0, 0] [0, 0])).hist).map (fun p => p.2) =
      [0x3F400000#32, 0x3E800000#32, 0xBE800000#32, 0xBF000000#32] := by decide +kernel

/-- `IRSPEC[0]` of `h = [0, 1]` (95_test_vectors 3.2). -/
theorem test_init_spectrum :
    ((initSequence refDatapath (fun i => if i = 1 then 0x3F800000#32 else 0#32)
      { engineOf 2 1 [] [] [] [] with n := 2 }).irspec).map (fun p => p.2) =
      [0x3E800000#32, 0#32, 0xBE800000#32, 0xBE800000#32] := by decide +kernel

theorem test_past_slot_wraps : pastSlot 0 2 1 = 1 := by decide

/-! ## INIT_CHECK, on the vectors of 95_test_vectors 2.2 (`B_MAX = 8`, `N_MAX = 16`, `SPEC_WORDS = 24`) -/

/-- The capacities of the vectors. -/
def vectorCaps : Caps := { bMax := 8, nMax := 16, specWords := 24 }

theorem test_check_ok_at_limit : initCheck vectorCaps 1#4 2#32 12#32 12#32 = (.ok, .none) := by decide
theorem test_check_mode_first : initCheck vectorCaps 0#4 3#32 0#32 0#32 = (.invalidArg, .modeUnsupported) := by decide
theorem test_check_mode_unknown : initCheck vectorCaps 15#4 2#32 2#32 2#32 = (.invalidArg, .modeUnknown) := by decide
theorem test_check_b_negative : initCheck vectorCaps 1#4 0x80000000#32 16#32 16#32 = (.invalidArg, .bNonpos) := by decide
theorem test_check_b_before_n : initCheck vectorCaps 1#4 3#32 0#32 0#32 = (.invalidArg, .bNotPow2) := by decide
theorem test_check_b_too_large : initCheck vectorCaps 1#4 0x2000#32 2#32 2#32 = (.capacity, .bTooLarge) := by decide
theorem test_check_n_nonpos : initCheck vectorCaps 1#4 8#32 0#32 0#32 = (.invalidArg, .nNonpos) := by decide
theorem test_check_n_too_large : initCheck vectorCaps 1#4 8#32 17#32 16#32 = (.capacity, .nTooLarge) := by decide
theorem test_check_spec : initCheck vectorCaps 1#4 1#32 13#32 13#32 = (.capacity, .specTooLarge) := by decide
theorem test_check_ir_count : initCheck vectorCaps 1#4 4#32 5#32 16#32 = (.invalidArg, .irCount) := by decide

/-! ## One step each -/

/-- `READY` with `B = N = 1`, an output `1.0` in hand and everything else zero. -/
def readyState : State :=
  { State.reset with
    b := 1, n := 1, nb := 1, phase := .ready
    irspec := [(0, 0#32), (1, 0#32)], hist := [(0, 0#32), (1, 0#32)], acc := [(0, 0x3F800000#32), (1, 0#32)]
    saved := [(0, 0#32)], irbuf := [(0, 0x40000000#32)], irWptr := 1#32 }

/-- The same, with a full block waiting for its flush. -/
def blockBusyState : State := { readyState with phase := .blockBusy, iib := 1, turn := .engine }

/-- The same, initializing. -/
def initBusyState : State := { readyState with phase := .initBusy }

/-- The status of 42_control R104's example. -/
def errorState : State :=
  { readyState with doutValid := true, overrun := true, errSticky := true, lastErr := .invalidArg, errCause := .bNonpos }

theorem test_status_example : errorState.statusWord = 0x0000121D#32 := by decide
theorem test_clrErr_example : (issue (.clrErr 0#20 0#4) errorState).statusWord = 0x00000005#32 := by decide
theorem test_nop_keeps_sticky : (issue (.nop 0#20 0#4) errorState).statusWord = 0x0000001D#32 := by decide
theorem test_din_before_init : (issue (.wrDin 0x3F800000#32) State.reset).statusWord = 0x00000110#32 := by decide
theorem test_push_full_block : (issue (.wrDin 0x40800000#32) readyState).statusWord = 0x00000007#32 := by decide
theorem test_push_output : (issue (.wrDin 0x40800000#32) readyState).dout = 0x3F800000#32 := by decide
theorem test_push_busy : (issue (.wrDin 0#32) initBusyState).statusWord = 0x00000412#32 := by decide
theorem test_overrun : (issue (.wrDin 0#32) { readyState with doutValid := true }).statusWord = 0x0000000F#32 := by decide
theorem test_opcode_before_busy : (issue (.cmdIllegal 5#8 0#20 0#4) blockBusyState).errCause = .opcode := by decide
theorem test_reserved_before_busy : (issue (.init 1#20 0#4) initBusyState).errCause = .reservedBits := by decide
theorem test_busy_before_mode : (issue (.init 0#20 0#4) blockBusyState).lastErr = .busy := by decide
theorem test_init_mode_zero : (issue (.init 0#20 0#4) State.reset).statusWord = 0x00008210#32 := by decide
theorem test_reset_command : (issue (.reset 0#20 0#4) readyState).tailLen = 0xFFFFFFFF#32 := by decide
theorem test_reset_keeps_staging : (issue (.reset 0#20 0#4) readyState).irWptr = 1#32 := by decide
theorem test_irBegin : (issue (.irBegin 0#20 0#4) { readyState with irWptr := 7#32 }).irWptr = 0#32 := by decide
theorem test_tail_example : (issue .rdTailLen { readyState with b := 2, n := 2 }).rdata = some 3#32 := by decide
theorem test_rd_dout_clears : (issue .rdDout errorState).statusWord = 0x00001219#32 := by decide
theorem test_rd_id : (issue .rdId blockBusyState).rdata = some 0x4F4C4131#32 := by decide
theorem test_index_reads_b_while_busy : (issue .rdIndexInBlock blockBusyState).rdata = some 1#32 := by decide
theorem test_debug_past_limit : (issue .rdDbgData { readyState with dbgSel := 0x30000002#32 }).rdata = some 0#32 := by decide
theorem test_debug_acc : (issue .rdDbgData readyState).rdata = some 0x3F800000#32 := by decide
theorem test_write_status_ignored : issue (.other 0x08#8 0xFFFFFFFF#32) errorState = errorState := by decide
theorem test_cfgB_reads_back : (issue .rdCfgB (issue (.wrCfgB 3#32) initBusyState)).rdata = some 3#32 := by decide
theorem test_lanes : [0, 1, 2, 3].map (laneByte 0x3F800000#32) = [0x00#8, 0x00#8, 0x80#8, 0x3F#8] := by decide

/-- A table word runs as the first instruction after reset. -/
theorem test_first_instruction :
    step (State.reset.withFetchWord 48 0x00000000000) = .next { State.reset with rdata := some 0x4F4C4131#32 } := by rfl

/-- Hardware reset while busy: `UNINIT`, `CFG_B` back at 8192 (70_reset R140). -/
theorem test_reset_while_busy :
    step { blockBusyState with cfgB := 2#32, turn := .host, pending := [.hardwareReset] } =
      .next { State.reset with resets := 1 } := by rfl

/-! ## The hypotheses of the statements are met -/

theorem one_le_bMax : 1 ≤ Config.bMax := Nat.one_le_two_pow
theorem one_le_nMax : 1 ≤ Config.nMax := Nat.succ_le_succ (Nat.zero_le _)
theorem two_le_specWords : 2 ≤ Config.specWords := Nat.le_add_left _ _

theorem nMax_lt : Config.nMax < 2 ^ 32 - 1 := by
  have hb : Config.bMax ≤ 2 ^ 31 := Nat.pow_le_pow_right (by decide) (by omega)
  have h := Nat.mod_lt Config.nMaxRaw (show 0 < 2 ^ 32 - 1 - Config.bMax by omega)
  have := one_le_bMax
  unfold Config.nMax; omega

theorem witness_wellFormed : (Instr.rdOther 0x48#8).wellFormed = true := by decide

theorem witness_accessKey : accessKey ⟨0x44, 32, false, 0#32⟩ = .ok 0x04400000000#41 := by rfl

/-- `StepRunsTheDecodedOperation`, at the last offset of the window. -/
theorem witness_step_operation :
    let s := { State.reset with pending := [.access ⟨0xFC, 32, false, 0#32⟩] }
    ¬(s.busy = true ∧ s.turn = .engine) ∧ decodeAccess ⟨0xFC, 32, false, 0#32⟩ = .ok (.rdOther 0xFC#8) :=
  ⟨by decide, by rfl⟩

/-- `EngineStepEndsTheBusyState`, all clauses. -/
theorem witness_engine_turn :
    (blockBusyState.busy = true ∧ blockBusyState.turn = .engine) ∧
      (¬(State.reset.busy = true ∧ State.reset.turn = .engine) ∧ State.reset.pending = []) ∧ State.reset.busy = false :=
  ⟨by decide, by decide, by decide⟩

/-- `BadAccessesAreBusErrors`, `HostPortWindowAndLanes`, `OnlyReportingOperationsWriteStatus`: bad accesses at their bounds. -/
theorem witness_bad_accesses :
    ((⟨0xFF, 8, true, 0#32⟩ : Access).off < 256 ∧ (⟨0xFF, 8, true, 0#32⟩ : Access).width ≠ 32) ∧
      ((⟨0xFF, 32, true, 0#32⟩ : Access).off < 256 ∧ (⟨0xFF, 32, true, 0#32⟩ : Access).off % 4 ≠ 0) ∧
      256 ≤ (⟨0x100, 32, true, 0#32⟩ : Access).off := by decide

/-- `HostPortWindowAndLanes`: the first and last address inside and the two just outside the window. -/
theorem witness_window :
    Config.base + 255 = Config.base + 255 ∧ 255 < 256 ∧ Config.base + 256 ≤ Config.base + 256 ∧
      (laneByte 0x80000001#32 3).getLsbD 7 = true := ⟨rfl, by decide, Nat.le_refl _, by decide⟩

/-- `HardwareResetSetsEveryRegister`, in a busy state. -/
theorem witness_hardware_reset :
    let s := { blockBusyState with turn := .host, pending := [.hardwareReset] }
    s.pending = .hardwareReset :: [] ∧ ¬(s.busy = true ∧ s.turn = .engine) := by decide

/-- `CommandDecodeCheck`: the smallest illegal opcode, a reserved bit on `INIT`, a mode bit on `CLR_ERR`. -/
theorem witness_decode_check :
    5 ≤ (cmdOpc 0x05000000#32).toNat ∧ ((cmdOpc 0x01000010#32).toNat < 5 ∧ cmdRsv 0x01000010#32 ≠ 0#20) ∧
      ((cmdOpc 0x04000001#32).toNat < 5 ∧ cmdMode 0x04000001#32 ≠ 0#4 ∧ cmdOpc 0x04000001#32 ≠ 0x01#8) := by decide

/-- `NopOnlyReportsOk`, `ClrErrClearsTheStickyFlags`, `ResetCommandDiscardsTheEngine`, `IrBeginRestartsTheCount`,
`PushEmitsThenStores`: each clause. -/
theorem witness_idle : readyState.busy = false ∧ State.reset.busy = false ∧ State.reset.phase = .uninit ∧
    initBusyState.busy = true ∧ (1#20 ≠ 0#20 ∨ 0#4 ≠ 0#4) ∧ (0#20 ≠ 0#20 ∨ 8#4 ≠ 0#4) := by decide

/-- `BusyEngineRejectsFiveOperations`. -/
theorem witness_busy : initBusyState.busy = true ∧ blockBusyState.busy = true ∧
    RejectedWhileBusy (.init 0#20 7#4) = true ∧ RejectedWhileBusy (.wrDin 0#32) = true := by decide

/-- `IrDataAppendsOneSample`: a full and an empty staging memory. -/
theorem witness_ir_data :
    Config.nMax ≤ ({ State.reset with irWptr := 0xFFFFFFFF#32 } : State).irWptr.toNat ∧
      State.reset.irWptr.toNat < Config.nMax := by
  have h := nMax_lt
  have h1 := one_le_nMax
  refine ⟨?_, ?_⟩
  · show Config.nMax ≤ (0xFFFFFFFF#32).toNat
    have : (0xFFFFFFFF#32).toNat = 2 ^ 32 - 1 := by decide
    omega
  · show 0 < Config.nMax
    omega

/-- `InitLatchesAnAdmissibleConfiguration`, at the smallest configuration. -/
theorem witness_init :
    let s := { State.reset with cfgB := 1#32, cfgN := 1#32, irWptr := 1#32 }
    s.busy = false ∧ s.cfgB.toInt = ((1 : Nat) : Int) ∧ s.cfgN.toInt = ((1 : Nat) : Int) ∧ s.irWptr.toNat = 1 ∧ IsPow2 1 ∧
      1 ≤ Config.bMax ∧ 1 ≤ 1 ∧ 1 ≤ Config.nMax ∧ ((1 - 1) / 1 + 1) * 2 * 1 ≤ Config.specWords :=
  ⟨by decide, by decide, by decide, by decide, ⟨0, rfl⟩, one_le_bMax, Nat.le_refl _, one_le_nMax, two_le_specWords⟩

/-- `RejectedInitKeepsTheEngine`, both clauses. -/
theorem witness_rejected_init :
    (issue (.init 0#20 0#4) blockBusyState).lastErr ≠ .ok ∧ readyState.busy = false ∧
      initCheck Config.caps 0#4 readyState.cfgB readyState.cfgN readyState.irWptr = (.invalidArg, .modeUnsupported) :=
  ⟨by decide, by decide, by rfl⟩

/-- `PushEmitsThenStores`, `TailLengthOrSentinel`, `PolledPushIsAccepted`. -/
theorem witness_ready :
    readyState.phase = .ready ∧ Memory.read? readyState.acc readyState.iib = some 0x3F800000#32 ∧ 1 ≤ readyState.n ∧
      readyState.phase ≠ .uninit ∧ initBusyState.phase = .initBusy := by decide

/-- `ImpulseResponsePartition`, at the last sample of a short last block. -/
theorem witness_partition : 1 ≤ 4 ∧ 1 ≤ 10 ∧ 9 < 10 ∧ 7 < 2 * 4 := by decide

/-- `InitSequenceClearsAndTransforms`, `BlockFlushOverlapsAndAdds`, `UnwrittenWordsReachNoOutput`: the block's datapath
keeps lengths. -/
theorem witness_keeps_length (l : Nat) :
    KeepsLength l (blockDatapath 0).fwd ∧ KeepsLength l (blockDatapath 0).inv :=
  ⟨fun v h => by rw [← h]; exact Config.fwd_length v, fun v h => by rw [← h]; exact Config.inv_length v⟩

/-- `PmacAccumulatesEveryBin`, `PastSlotIsJRoundsBack`, `UnwrittenWordsReachNoOutput`: a written engine. -/
theorem witness_written_engine :
    readyState.toEngine.Written ∧ 1 ≤ readyState.b ∧ readyState.hcur < readyState.nb ∧ readyState.iib < readyState.b := by
  refine ⟨⟨?_, ?_, ?_, ?_⟩, by decide, by decide, by decide⟩
  · intro i hi; have : i = 0 ∨ i = 1 := by change i < 2 at hi; omega
    rcases this with rfl | rfl <;> rfl
  · intro i hi; have : i = 0 ∨ i = 1 := by change i < 2 at hi; omega
    rcases this with rfl | rfl <;> rfl
  · intro i hi; have : i = 0 ∨ i = 1 := by change i < 2 at hi; omega
    rcases this with rfl | rfl <;> rfl
  · intro i hi; have : i = 0 := by change i < 1 at hi; omega
    subst this; rfl

/-- An interior bin for `PmacAccumulatesEveryBin` (`B = 2`, bin 1). -/
theorem witness_interior_bin : 1 ≤ (engineOf 2 0 [] [] [] []).b ∧ 1 ≤ 1 ∧ 1 < (engineOf 2 0 [] [] [] []).b := by decide

/-- `DebugWindowReadsTheSelectedWord`: each clause, at the bounds of its range. -/
theorem witness_debug :
    (0x30000001#32).extractLsb' 28 4 = 3#4 ∧ ((0x30000001#32).extractLsb' 0 28).toNat < readyState.nb * (2 * readyState.b) ∧
      readyState.nb * (2 * readyState.b) ≤ ((0x30000002#32).extractLsb' 0 28).toNat ∧
      4 < ((0x50000000#32).extractLsb' 28 4).toNat ∧
      Memory.read? readyState.irspec 1 = some 0#32 ∧ Memory.read? readyState.irbuf 0 = some 0x40000000#32 := by decide

/-- `DebugWindowReadsTheSelectedWord`: index 0 lies inside `IRBUF`. An index past `N_MAX` can be selected only where
`N_MAX`, which is open, is below the largest 28-bit index. -/
theorem witness_debug_irbuf :
    ((0x40000000#32).extractLsb' 28 4).toNat = 4 ∧ ((0x40000000#32).extractLsb' 0 28).toNat < Config.nMax :=
  ⟨by decide, one_le_nMax⟩

/-- `UnreadableOffsetsReadZero`, `UnwritableOffsetsIgnoreWrites`: the first and last unmapped offsets. -/
theorem witness_unmapped : (0x48#8).toNat % 4 = 0 ∧ 0x48 ≤ (0x48#8).toNat ∧ 0x48 ≤ (0xFC#8).toNat ∧
    (0x0C#8).toNat ∈ [0x04, 0x1C, 0x20, 0x0C] := by decide

/-- `ReadsHaveNoSideEffect`, `OnlyReportingOperationsWriteStatus`, `FailingOperationsChangeOnlyStatus`,
`FlagsChangeOnlyAsStated`, `SpectraOutliveEveryOtherOperation`, `FftTransactionsInOrder`: operations that complete, one
failing and two not. -/
theorem witness_operations :
    IsRead .rdId = true ∧ exec .rdId readyState = .next (readyState.respond idWord) ∧
      Reporting (.wrDin 0#32) = true ∧ (issue (.wrDin 0#32) State.reset).lastErr ≠ .ok ∧
      (issue (.wrDin 0#32) readyState).lastErr = .ok ∧ Reporting (.wrCfgB 0#32) = false ∧
      IsClrErr (.clrErr 0#20 0#4) = true ∧ blockBusyState.phase ≠ .initBusy :=
  ⟨by decide, rfl, by decide, by decide, by decide, by decide, by decide, by decide⟩

/-- `StateChangesOnlyByTheTable`: a push that completes a block changes `STATE`. -/
theorem witness_state_change :
    let s := { readyState with pending := [.access ⟨0x20, 32, true, 0#32⟩] }
    ∃ t, step s = .next t ∧ t.phase ≠ s.phase := ⟨_, rfl, by decide⟩

/-- `StepKeepsTheInvariant`, `FlushReturnsTheTail`: a running state that meets the invariant, and its step. -/
theorem witness_invariant : readyState.Inv ∧ ∃ t, step readyState = .next t := by
  have hb := one_le_bMax
  have hn := one_le_nMax
  have hs := two_le_specWords
  refine ⟨⟨?_, ?_, ?_, ?_, ?_, ?_⟩, ⟨_, rfl⟩⟩
  · refine ⟨?_, ?_, ?_, ?_, ?_⟩ <;> simp [readyState, Memory.wf]
  · refine ⟨?_, ?_, ?_, ?_, ?_⟩ <;> simp [readyState, Memory.Below] <;> omega
  · exact ⟨fun h => (by cases h), fun _ => ⟨⟨0, rfl⟩, Nat.le_refl _, hb, Nat.le_refl _, hn, rfl, hs⟩⟩
  · exact ⟨fun h => (by rcases h with h | h <;> cases h), fun _ => ⟨by decide, by decide⟩, fun h => (by cases h)⟩
  · refine ⟨hn, ?_, fun h => (by cases h), fun _ => witness_written_engine.1⟩
    intro i hi
    have : i = 0 := by change i < 1 at hi; omega
    subst this; rfl
  · exact ⟨by decide, fun h => absurd rfl h⟩

/-- `CountsAndCursorsReadByState`: a state of each kind that meets the invariant. -/
theorem witness_counts :
    ({ State.reset with cfgB := 1#32 }).Inv ∧ blockBusyState.Inv ∧ initBusyState.Inv := by
  have hb := one_le_bMax
  have hn := one_le_nMax
  have hs := two_le_specWords
  have staged : Memory.WrittenTo readyState.irbuf 1 := by
    intro i hi
    have : i = 0 := by omega
    subst this; rfl
  refine ⟨⟨?_, ?_, ?_, ?_, ?_, ?_⟩, ⟨?_, ?_, ?_, ?_, ?_, ?_⟩, ⟨?_, ?_, ?_, ?_, ?_, ?_⟩⟩
  · refine ⟨?_, ?_, ?_, ?_, ?_⟩ <;> simp [State.reset, Memory.wf]
  · refine ⟨?_, ?_, ?_, ?_, ?_⟩ <;> simp [State.reset, Memory.Below]
  · exact ⟨fun _ => ⟨rfl, rfl, rfl⟩, fun h => absurd rfl h⟩
  · exact ⟨fun _ => ⟨rfl, rfl⟩, fun h => (by cases h), fun h => (by cases h)⟩
  · exact ⟨Nat.zero_le _, fun i hi => absurd hi (Nat.not_lt_zero i), fun h => (by cases h),
      fun h => (by rcases h with h | h <;> cases h)⟩
  · exact ⟨by decide, fun h => absurd rfl h⟩
  · refine ⟨?_, ?_, ?_, ?_, ?_⟩ <;> simp [blockBusyState, readyState, Memory.wf]
  · refine ⟨?_, ?_, ?_, ?_, ?_⟩ <;> simp [blockBusyState, readyState, Memory.Below] <;> omega
  · exact ⟨fun h => (by cases h), fun _ => ⟨⟨0, rfl⟩, Nat.le_refl _, hb, Nat.le_refl _, hn, rfl, hs⟩⟩
  · exact ⟨fun h => (by rcases h with h | h <;> cases h), fun h => (by cases h), fun _ => ⟨rfl, by decide⟩⟩
  · exact ⟨hn, staged, fun h => (by cases h), fun _ => witness_written_engine.1⟩
  · exact ⟨by decide, fun h => absurd rfl h⟩
  · refine ⟨?_, ?_, ?_, ?_, ?_⟩ <;> simp [initBusyState, readyState, Memory.wf]
  · refine ⟨?_, ?_, ?_, ?_, ?_⟩ <;> simp [initBusyState, readyState, Memory.Below] <;> omega
  · exact ⟨fun h => (by cases h), fun _ => ⟨⟨0, rfl⟩, Nat.le_refl _, hb, Nat.le_refl _, hn, rfl, hs⟩⟩
  · exact ⟨fun _ => ⟨rfl, rfl⟩, fun h => (by cases h), fun h => (by cases h)⟩
  · exact ⟨hn, staged, fun _ => rfl, fun h => (by rcases h with h | h <;> cases h)⟩
  · exact ⟨by decide, fun h => absurd rfl h⟩

/-- `AddAndSubRoundToNearestEven`, `MulRoundsToNearestEven`: finite words, among them the largest and a subnormal. -/
theorem witness_finite : fpIsFinite 0x7F7FFFFF#32 = true ∧ fpIsFinite 0x80000001#32 = true := by decide

/-- `NanResultsAndInfinities`: a NaN, an infinity, a finite word and a zero. -/
theorem witness_special : fpIsNaN 0x7FC00000#32 = true ∧ fpIsNaN 0x7F800001#32 = true ∧ fpIsInf 0xFF800000#32 = true ∧
    fpIsInf 0x7F800000#32 = true ∧ fpIsFinite 0x7F7FFFFF#32 = true ∧ fpIsZero 0x80000000#32 = true := by decide

/-- `ReferenceFftMeetsTheContract`, `ParametersMeetTheirConstraints`: vectors of zeros and of finite words, and an exact
value of each transform. -/
theorem witness_reference_words :
    (∀ w ∈ [0x80000000#32, 0#32], fpIsZero w = true) ∧ (∀ w ∈ [0x3F800000#32, 0x00000001#32], fpIsFinite w = true) ∧
      (∃ r, (refForward ([0x3F800000#32, 0x00000001#32].map fpReal))[1]? = some r) ∧
      ∃ r, (refInverse ([0x3F800000#32, 0x00000001#32].map fpReal))[1]? = some r :=
  ⟨by rintro w hw; fin_cases hw <;> rfl, by rintro w hw; fin_cases hw <;> rfl, ⟨_, List.getElem?_eq_getElem (by simp)⟩,
    ⟨_, List.getElem?_eq_getElem (by simp)⟩⟩

/-- `FlushReturnsTheTail`: a negative and a zero length, and the states of its clauses. -/
theorem witness_procedures :
    (-1 : Int) < 0 ∧ (0 : Int) ≤ 0 ∧ State.reset.phase = .uninit ∧ initBusyState.phase = .initBusy ∧
      readyState.phase = .ready := by decide

/-- `UnwrittenWordsReachNoOutput`: two staged vectors that agree below `N = 1` and differ beyond. -/
theorem witness_staged :
    Memory.read? readyState.irbuf 0 = some 0x40000000#32 ∧
      (∀ i, i < readyState.n → (fun i => i) i = (fun i => if i < 1 then i else 7) i) := by
  refine ⟨by decide, fun i hi => ?_⟩
  have : i < 1 := hi
  simp [this]

/-- `ScalingByKIsExact`: both clauses, at `K = 2`: `2^127` overflows, `2^126` does not. -/
theorem witness_scaling :
    2 ^ (128 + 149) ≤ (fpValue 0x7F000000#32 * 2 ^ 1).natAbs ∧ (fpValue 0x7E800000#32 * 2 ^ 1).natAbs < 2 ^ (128 + 149) := by
  decide +kernel

/-- `BootSequenceReachesReady`, at the smallest configuration. -/
theorem witness_boot :
    [0x3F800000#32].length = 1 ∧ IsPow2 1 ∧ 1 ≤ Config.bMax ∧ 1 < 2 ^ 31 ∧ 1 ≤ 1 ∧ 1 ≤ Config.nMax ∧
      ((1 - 1) / 1 + 1) * 2 * 1 ≤ Config.specWords :=
  ⟨rfl, ⟨0, rfl⟩, one_le_bMax, by decide, Nat.le_refl _, one_le_nMax, two_le_specWords⟩

/-- `ZeroHistoryGivesZeroOutputs`: an engine whose history, spectra and residue are zeros. -/
theorem witness_zero_history :
    let e := { readyState.toEngine with acc := [(0, 0#32), (1, 0x80000000#32)] }
    let D := blockDatapath 0
    1 ≤ e.b ∧ e.b ≤ 2 ^ 126 ∧ e.hcur < e.nb ∧
      (∀ i, i < e.nb * (2 * e.b) → fpIsZero (D.word .hist e.hist i) = true) ∧
      (∀ i, i < e.nb * (2 * e.b) → fpIsFinite (D.word .irspec e.irspec i) = true) ∧
      ∀ k, k < e.b → fpIsZero (D.word .acc e.acc (e.b + k)) = true := by
  refine ⟨by decide, by decide, by decide, ?_, ?_, ?_⟩
  · intro i hi; have : i = 0 ∨ i = 1 := by change i < 2 at hi; omega
    rcases this with rfl | rfl <;> rfl
  · intro i hi; have : i = 0 ∨ i = 1 := by change i < 2 at hi; omega
    rcases this with rfl | rfl <;> rfl
  · intro k hk; have : k = 0 := by change k < 1 at hk; omega
    subst this; rfl

/-- `ExactOutputLaw`, `ExactTailEnds`: the reference FFT of length 2 meets the contract over the reals. -/
theorem witness_convolves_exactly : ConvolvesExactly 2 (refFwd2 (F := ℝ)) (refInv2 (F := ℝ)) := by
  have two : ∀ v : List ℝ, v.length = 2 → ∃ a b, v = [a, b] := fun v h => List.length_eq_two.mp h
  refine ⟨?_, ?_, ⟨?_, ?_⟩, ⟨?_, ?_⟩, ?_⟩
  · intro v h; obtain ⟨a, b, rfl⟩ := two v h; rfl
  · intro v h; obtain ⟨a, b, rfl⟩ := two v h; rfl
  · intro u v hu hv
    obtain ⟨a, b, rfl⟩ := two u hu
    obtain ⟨c, d, rfl⟩ := two v hv
    simp [refFwd2]; constructor <;> ring
  · intro c v hv; obtain ⟨a, b, rfl⟩ := two v hv
    simp [refFwd2]; constructor <;> ring
  · intro u v hu hv
    obtain ⟨a, b, rfl⟩ := two u hu
    obtain ⟨c, d, rfl⟩ := two v hv
    simp [refInv2]; constructor <;> ring
  · intro c v hv; obtain ⟨a, b, rfl⟩ := two v hv
    simp [refInv2]; constructor <;> ring
  · intro u v hu hv
    obtain ⟨a, b, rfl⟩ := two u hu
    obtain ⟨c, d, rfl⟩ := two v hv
    simp [refFwd2, refInv2, pmul, circconv, List.range_succ]; constructor <;> ring

/-- `ExactOutputLaw`, `ExactTailEnds`: the remaining hypotheses, with one block of length 1 and an impulse response of one
sample; the last push of the tail and the first after it. -/
theorem witness_exact_law :
    let e : Engine ℝ := { b := 1, n := 1, nb := 1, iib := 0, hcur := 0, irspec := [], hist := [], acc := [], saved := [], port := [] }
    1 ≤ e.b ∧ e.n = [(2 : ℝ)].length ∧ 1 ≤ [(2 : ℝ)].length ∧ e.nb = blockCount e.n e.b ∧ 0 < [(3 : ℝ)].length ∧
      1 < [(3 : ℝ)].length + (([(2 : ℝ)].length - 1) + e.b) ∧ [(3 : ℝ)].length + (([(2 : ℝ)].length - 1) + e.b) ≤ 2 :=
  ⟨Nat.le_refl _, rfl, Nat.le_refl _, rfl, Nat.le_refl _, Nat.le_refl _, Nat.le_refl _⟩

end Sys2Proof.Tests
end

/-! The fields of a packed word, and when the rounding of `roundBits` is exact (00_scope R11, R13). -/

namespace Sys2Proof.Machine

/-! ## The fields of a packed word -/

theorem toNat_fpPack {bits : Nat} (neg : Bool) (h : bits < 2 ^ 31) :
    (fpPack neg bits).toNat = (if neg then 2 ^ 31 else 0) + bits := by
  rw [fpPack, BitVec.toNat_ofNat]
  split <;> omega

theorem fpSign_fpPack {bits : Nat} (neg : Bool) (h : bits < 2 ^ 31) : fpSign (fpPack neg bits) = neg := by
  rw [fpSign, BitVec.msb_eq_decide, toNat_fpPack neg h]
  cases neg
  · simpa using h
  · simp

theorem fpFrac_fpPack {bits : Nat} (neg : Bool) (h : bits < 2 ^ 31) : fpFrac (fpPack neg bits) = bits % 2 ^ 23 := by
  rw [fpFrac, toNat_fpPack neg h]
  split <;> omega

theorem fpExp_fpPack {bits : Nat} (neg : Bool) (h : bits < 2 ^ 31) : fpExp (fpPack neg bits) = bits / 2 ^ 23 := by
  rw [fpExp, toNat_fpPack neg h]
  split <;> omega

/-- The significand `q` of 24 bits at the place `2^j`: the exponent is `j + 1` with the hidden bit, and 0 without it. -/
theorem fpMagnitude_fpPack {j q : Nat} (neg : Bool) (hj : j < 254) (hq : q < 2 ^ 24) (hidden : j = 0 ∨ 2 ^ 23 ≤ q) :
    fpMagnitude (fpPack neg (j * 2 ^ 23 + q)) = q * 2 ^ j := by
  have h : j * 2 ^ 23 + q < 2 ^ 31 := by omega
  rw [fpMagnitude, fpExp_fpPack neg h, fpFrac_fpPack neg h]
  by_cases small : q < 2 ^ 23
  · obtain rfl : j = 0 := by omega
    rw [if_pos (by omega)]
    omega
  · rw [if_neg (by omega), show (j * 2 ^ 23 + q) / 2 ^ 23 - 1 = j by omega,
      show 2 ^ 23 + (j * 2 ^ 23 + q) % 2 ^ 23 = q by omega]

theorem fpIsFinite_fpPack {bits : Nat} (neg : Bool) (h : bits < 0x7F800000) : fpIsFinite (fpPack neg bits) = true := by
  rw [fpIsFinite, fpExp_fpPack neg (by omega)]
  exact bne_iff_ne.mpr (by omega)

/-! ## The value of a finite word -/

theorem natAbs_fpValue (w : Word) : (fpValue w).natAbs = fpMagnitude w := by
  unfold fpValue; split <;> simp

/-- A magnitude is a significand of at most 24 bits at some place. -/
theorem fpMagnitude_eq_significand (w : Word) : ∃ c e, c < 2 ^ 24 ∧ fpMagnitude w = c * 2 ^ e := by
  have frac : fpFrac w < 2 ^ 23 := Nat.mod_lt _ (by positivity)
  unfold fpMagnitude
  split
  · exact ⟨fpFrac w, 0, by omega, by simp⟩
  · exact ⟨2 ^ 23 + fpFrac w, _, by omega, rfl⟩

/-! ## Rounding -/

theorem roundDiv_mul_two_pow (m j x : Nat) : roundDiv (m * 2 ^ x) (j + x) = roundDiv m j := by
  have pos : 0 < 2 ^ x := by positivity
  simp only [roundDiv, pow_add, Nat.mul_div_mul_right _ _ pos, Nat.mul_mod_mul_right, ← Nat.mul_assoc,
    Nat.mul_lt_mul_right pos, Nat.mul_left_inj pos.ne']

theorem roundDiv_of_dvd {m k : Nat} (h : 2 ^ k ∣ m) : roundDiv m k = m / 2 ^ k := by
  have pos : 0 < 2 ^ k := by positivity
  simp only [roundDiv, Nat.mod_eq_zero_of_dvd h]
  rw [if_neg (by omega)]

theorem div_le_roundDiv (m k : Nat) : m / 2 ^ k ≤ roundDiv m k := by
  simp only [roundDiv]; split <;> omega

theorem log2_mul_two_pow {m : Nat} (x : Nat) (h : m ≠ 0) : Nat.log2 (m * 2 ^ x) = Nat.log2 m + x := by
  induction x with
  | zero => simp
  | succ x ih => rw [pow_succ', Nat.mul_left_comm, Nat.log2_two_mul (by positivity), ih, Nat.add_assoc]

/-- The rounding depends only on the value, not on the unit `2^-(149 + x)` it is counted in. -/
theorem roundBits_mul_two_pow (m x : Nat) : roundBits (m * 2 ^ x) x = roundBits m 0 := by
  have place : max x (Nat.log2 (m * 2 ^ x) + 1 - 24) = Nat.log2 m + 1 - 24 + x := by
    rcases Nat.eq_zero_or_pos m with rfl | pos
    · simp
    · rw [log2_mul_two_pow _ pos.ne']; omega
  simp only [roundBits, place, roundDiv_mul_two_pow, Nat.add_sub_cancel, Nat.zero_max, Nat.sub_zero]

/-- The place of the last bit kept of `m` units of `2^-149`, as `roundBits` chooses it. -/
theorem roundBits_zero (m : Nat) :
    roundBits m 0 = min ((Nat.log2 m - 23) * 2 ^ 23 + roundDiv m (Nat.log2 m - 23)) 0x7F800000 := by
  simp [roundBits]

/-- 24 bits are kept: the leading one is the hidden bit unless the place is the lowest. -/
theorem leading_significand (m : Nat) :
    m / 2 ^ (Nat.log2 m - 23) < 2 ^ 24 ∧ (Nat.log2 m - 23 = 0 ∨ 2 ^ 23 ≤ m / 2 ^ (Nat.log2 m - 23)) := by
  rcases Nat.eq_zero_or_pos m with rfl | pos
  · simp
  constructor
  · rw [Nat.div_lt_iff_lt_mul (by positivity), ← pow_add]
    exact Nat.lt_log2_self.trans_le (Nat.pow_le_pow_right (by decide) (by omega))
  · by_cases low : Nat.log2 m ≤ 23
    · exact .inl (by omega)
    · right
      rw [Nat.le_div_iff_mul_le (by positivity), ← pow_add, show 23 + (Nat.log2 m - 23) = Nat.log2 m by omega]
      exact Nat.log2_self_le pos.ne'

/-- A significand of 24 bits loses nothing below the place kept. -/
theorem two_pow_dvd_of_significand {c : Nat} (e : Nat) (hc : c < 2 ^ 24) :
    2 ^ (Nat.log2 (c * 2 ^ e) - 23) ∣ c * 2 ^ e := by
  rcases Nat.eq_zero_or_pos c with rfl | pos
  · simp
  · have : Nat.log2 c < 24 := (Nat.log2_lt pos.ne').mpr hc
    rw [log2_mul_two_pow _ pos.ne']
    exact (pow_dvd_pow 2 (by omega)).mul_left c

/-- A significand of 24 bits below `2^128` is rounded to itself. -/
theorem roundBits_exact {c : Nat} (e : Nat) (neg : Bool) (hc : c < 2 ^ 24) (below : c * 2 ^ e < 2 ^ (128 + 149)) :
    let w := fpPack neg (roundBits (c * 2 ^ e) 0)
    fpIsFinite w = true ∧ fpSign w = neg ∧ fpMagnitude w = c * 2 ^ e := by
  have divides := two_pow_dvd_of_significand e hc
  obtain ⟨small, hidden⟩ := leading_significand (c * 2 ^ e)
  have place : Nat.log2 (c * 2 ^ e) - 23 < 254 := by
    rcases Nat.eq_zero_or_pos (c * 2 ^ e) with h | pos
    · rw [h]; simp
    · have := (Nat.log2_lt pos.ne').mpr below
      omega
  rw [roundBits_zero, roundDiv_of_dvd divides, Nat.min_eq_left (by omega)]
  refine ⟨fpIsFinite_fpPack neg (by omega), fpSign_fpPack neg (by omega), ?_⟩
  rw [fpMagnitude_fpPack neg place small hidden, Nat.div_mul_cancel divides]

/-- From `2^128` on, `2^277` units of `2^-149`, the rounding is infinity. -/
theorem roundBits_overflow {m k : Nat} (hk : 128 + 149 ≤ k) (h : 2 ^ k ≤ m) : roundBits m 0 = 0x7F800000 := by
  have place : k ≤ Nat.log2 m := (Nat.le_log2 ((Nat.two_pow_pos k).trans_le h).ne').mpr h
  obtain ⟨_, hidden⟩ := leading_significand m
  have := div_le_roundDiv m (Nat.log2 m - 23)
  rw [roundBits_zero]
  omega

/-! ## Multiplying by a power of two -/

/-- The scale factor `2^m` as a word. -/
theorem fpOfNat_two_pow {m : Nat} (h : m ≤ 127) :
    fpIsFinite (fpOfNat (2 ^ m)) = true ∧ fpSign (fpOfNat (2 ^ m)) = false ∧
      fpMagnitude (fpOfNat (2 ^ m)) = 2 ^ m * 2 ^ 149 := by
  have exact := roundBits_exact (c := 1) (m + 149) false (by decide)
    (by rw [one_mul]; exact pow_lt_pow_right₀ (by decide) (by omega))
  rwa [one_mul, pow_add] at exact

theorem fmul_of_finite {a b : Word} (ha : fpIsFinite a = true) (hb : fpIsFinite b = true) :
    fmul a b = fpPack (fpSign a != fpSign b) (roundBits (fpMagnitude a * fpMagnitude b) 149) := by
  have special : ∀ w, fpIsFinite w = true → fpIsNaN w = false ∧ fpIsInf w = false := by
    intro w hw
    simp_all [fpIsFinite, fpIsNaN, fpIsInf]
  simp [fmul, special a ha, special b hb]

theorem fmul_two_pow {t : Word} {m : Nat} (ht : fpIsFinite t = true) (h : m ≤ 127) :
    fmul t (fpOfNat (2 ^ m)) = fpPack (fpSign t) (roundBits (fpMagnitude t * 2 ^ m) 0) := by
  obtain ⟨finite, sign, magnitude⟩ := fpOfNat_two_pow h
  rw [fmul_of_finite ht finite, sign, magnitude, ← Nat.mul_assoc, roundBits_mul_two_pow, Bool.bne_false]

/-- Settles O51: a finite magnitude has a significand of 24 bits, and scaling by `2^m` only moves its place up. -/
theorem scalingByKIsExact : Obligations.ScalingByKIsExact := by
  intro t m ht _ hm
  obtain ⟨finite, sign, magnitude⟩ := fpOfNat_two_pow hm
  have size : (fpValue t * 2 ^ m).natAbs = fpMagnitude t * 2 ^ m := by
    rw [Int.natAbs_mul, natAbs_fpValue, Int.natAbs_pow]; rfl
  rw [size, fmul_two_pow ht hm]
  refine ⟨finite, by simp [fpValue, sign, magnitude], fun below => ?_, fun above => ?_⟩
  · obtain ⟨c, e, hc, significand⟩ := fpMagnitude_eq_significand t
    rw [significand, Nat.mul_assoc, ← pow_add] at below ⊢
    obtain ⟨finite', sign', magnitude'⟩ := roundBits_exact (e + m) (fpSign t) hc below
    refine ⟨finite', ?_⟩
    rw [fpValue, sign', magnitude', fpValue, significand]
    split <;> push_cast <;> ring
  · rw [roundBits_overflow le_rfl above, fpInf]

end Sys2Proof.Machine

/-! The reference FFT at lengths 2 and 4: its twiddle factors are the powers of `-1` and of `i` (00_scope R16, R17). -/

namespace Sys2Proof.Machine

/-! ## Twiddle factors -/

theorem twiddle_two (k t : Nat) : Complex.exp ((2 * Real.pi * Complex.I * k * t) / (2 : ℕ)) = (-1) ^ (k * t) := by
  rw [← Complex.exp_pi_mul_I, ← Complex.exp_nat_mul]
  congr 1; push_cast; ring

theorem twiddle_four (k t : Nat) :
    Complex.exp ((2 * Real.pi * Complex.I * k * t) / (4 : ℕ)) = Complex.I ^ (k * t) := by
  conv_rhs => rw [← Complex.exp_pi_div_two_mul_I, ← Complex.exp_nat_mul]
  congr 1; push_cast; ring

/-! ## Spectra as sums over the words of the vector -/

theorem dftBin_two (x0 x1 : ℝ) (k : Nat) : dftBin [x0, x1] k = x0 + x1 * (-1) ^ k := by
  simp only [dftBin, List.length_cons, List.length_nil, Nat.zero_add, Nat.reduceAdd, neg_div, Complex.exp_neg,
    twiddle_two]
  simp [Finset.sum_range_succ, ← inv_pow, inv_neg]

theorem dftBin_four (x0 x1 x2 x3 : ℝ) (k : Nat) :
    dftBin [x0, x1, x2, x3] k =
      x0 + x1 * (-Complex.I) ^ k + x2 * (-Complex.I) ^ (k * 2) + x3 * (-Complex.I) ^ (k * 3) := by
  simp only [dftBin, List.length_cons, List.length_nil, Nat.zero_add, Nat.reduceAdd, neg_div, Complex.exp_neg,
    twiddle_four]
  simp [Finset.sum_range_succ, ← inv_pow]

theorem refForward_two (x0 x1 : ℝ) : refForward [x0, x1] = refFwd2 [x0, x1] := by
  have bins : refForward [x0, x1] = [(refSpectrum [x0, x1] 0).re, (refSpectrum [x0, x1] 1).re] := rfl
  simp [bins, refSpectrum, dftBin_two, refFwd2]
  constructor <;> ring

theorem refForward_four (x0 x1 x2 x3 : ℝ) : refForward [x0, x1, x2, x3] = refFwd4 [x0, x1, x2, x3] := by
  have bins : refForward [x0, x1, x2, x3] =
      let X := refSpectrum [x0, x1, x2, x3]
      [(X 0).re, (X 1).re, (X 2).re, (X 1).im] := rfl
  simp [bins, refSpectrum, dftBin_four, refFwd4, pow_succ]
  refine ⟨?_, ?_, ?_, ?_⟩ <;> ring

/-- The definition casts the indexes to `ℂ` before it maps over them; here they stay numbers. -/
theorem refInverse_eq (c : List ℝ) :
    refInverse c = (List.range c.length).map fun t : ℕ =>
      (∑ k ∈ Finset.range c.length,
        packedBin c k * Complex.exp ((2 * Real.pi * Complex.I * k * t) / c.length)).re := by
  simp [refInverse, ← List.map_eq_flatMap, Function.comp_def]

theorem refInverse_two (c0 c1 : ℝ) : refInverse [c0, c1] = refInv2 [c0, c1] := by
  simp only [refInverse_eq, List.length_cons, List.length_nil, Nat.zero_add, Nat.reduceAdd, twiddle_two]
  simp [List.range_succ, Finset.sum_range_succ, packedBin, refInv2]
  ring

theorem refInverse_four (c0 c1 c2 c3 : ℝ) : refInverse [c0, c1, c2, c3] = refInv4 [c0, c1, c2, c3] := by
  simp only [refInverse_eq, List.length_cons, List.length_nil, Nat.zero_add, Nat.reduceAdd, twiddle_four]
  simp [List.range_succ, Finset.sum_range_succ, packedBin, refInv4, pow_succ]
  refine ⟨?_, ?_, ?_, ?_⟩ <;> ring

/-- Settles O60, word by word from the sums of R16. -/
theorem referenceFftClosedForms : Obligations.ReferenceFftClosedForms :=
  ⟨fun x0 x1 => ⟨refForward_two x0 x1, refInverse_two x0 x1⟩,
    fun x0 x1 x2 x3 => ⟨refForward_four x0 x1 x2 x3, refInverse_four x0 x1 x2 x3⟩⟩

end Sys2Proof.Machine

/-! What the reads leave of the state, the flags after each operation (10_state R43), and the registers right after a
reset (10_state R46). -/

namespace Sys2Proof.Machine

/-! ## Reads -/

/-- What a read can do (20_memory R53): `RD_DOUT` clears `DOUT_VALID`; any other read leaves the block as it is. -/
theorem exec_read_effect (i : Instr) (s t : State) (hr : IsRead i = true) (h : exec i s = .next t) :
    (i = .rdDout ∧ t = { s.respond s.dout with doutValid := false }) ∨
      (i ≠ .rdDout ∧ ∃ w d, t = { s.respond w with draws := d }) := by
  cases i <;> cases hr <;> cases h
  case rdDout => exact .inl ⟨rfl, rfl⟩
  all_goals exact .inr ⟨nofun, _, _, rfl⟩

theorem read_kinds {i : Instr} (hr : IsRead i = true) :
    IsPush i = false ∧ IsClrErr i = false ∧ Reporting i = false := by
  cases i <;> cases hr <;> exact ⟨rfl, rfl, rfl⟩

/-! ## Flags -/

theorem State.engineStep_flags (s : State) :
    s.engineStep.doutValid = s.doutValid ∧ s.engineStep.overrun = s.overrun ∧
      s.engineStep.errSticky = s.errSticky := by
  rcases s.engineStep_cases with ⟨_, e⟩ | ⟨_, e⟩ | ⟨_, e⟩ <;> rw [e] <;> exact ⟨rfl, rfl, rfl⟩

theorem State.hardwareReset_flags (s : State) :
    s.hardwareReset.doutValid = false ∧ s.hardwareReset.overrun = false ∧ s.hardwareReset.errSticky = false :=
  ⟨rfl, rfl, rfl⟩

/-- Settles O41: `RD_DOUT`, a failing operation, an accepted push and an accepted `CLR_ERR` are the only operations that
touch a flag. -/
theorem flagsChangeOnlyAsStated : Obligations.FlagsChangeOnlyAsStated := by
  refine ⟨fun i s t h => ?_, State.engineStep_flags, State.hardwareReset_flags⟩
  cases hr : IsRead i with
  | true =>
    obtain ⟨noPush, noClrErr, noReport⟩ := read_kinds hr
    rcases exec_read_effect i s t hr h with ⟨rfl, rfl⟩ | ⟨hi, w, d, rfl⟩
    · simp [noPush, noClrErr, noReport]
    · simp [hi, noPush, noClrErr, noReport]
  | false =>
    cases exec_write_effect i s t hr h with
    | failed _ c x reporting notOk =>
      have hi : i ≠ .rdDout := by rintro rfl; cases reporting
      simp [hi, reporting, notOk]
    | din d _ => simp [IsPush, IsClrErr]
    | clrErr => simp [IsPush, IsClrErr]
    | _ => simp [IsPush, IsClrErr, Reporting]

/-! ## Registers right after a reset -/

/-- A state that a reset can leave: the registers of 10_state R46, with any events to come and any of the model's
counts. -/
def State.afterReset (pending : List HostEvent) (draws resets : Nat) : State :=
  { State.reset with pending := pending, draws := draws, resets := resets }

theorem State.reset_eq_afterReset : State.reset = State.afterReset [] 0 0 := rfl

theorem State.hardwareReset_eq_afterReset (s : State) :
    s.hardwareReset = State.afterReset s.pending s.draws (s.resets + 1) := rfl

theorem State.statusWord_afterReset (pending : List HostEvent) (draws resets : Nat) :
    (State.afterReset pending draws resets).statusWord = 0#32 := by
  change State.reset.statusWord = 0#32
  decide

/-- In `UNINIT` the debug window shows `IRBUF` and nothing else (42_control R110). -/
theorem State.debugData_uninit (s : State) (hp : s.phase = .uninit) (hm : msel s.dbgSel ≠ 4) :
    s.debugData = 0#32 := by
  simp [State.debugData, hp, hm]

theorem State.debugDraws_idle (s : State) (h : s.busy = false) : s.debugDraws = false := by
  simp [State.debugDraws, h]

theorem State.debugData_afterReset (pending : List HostEvent) (draws resets : Nat) :
    (State.afterReset pending draws resets).debugData = 0#32 := by
  have hm : msel State.reset.dbgSel ≠ 4 := by decide
  exact State.debugData_uninit _ rfl hm

/-- Settles O10: the reads return the registers of the reset state, and `DBG_DATA` 0, since `DBG_SEL` selects an engine
memory there. -/
theorem registersReadTheirResetValues : Obligations.RegistersReadTheirResetValues := by
  intro i w h
  suffices reads : ∀ pending draws resets, exec i (State.afterReset pending draws resets) =
      .next { State.afterReset pending draws resets with rdata := some w } from
    ⟨by rw [State.reset_eq_afterReset, reads], fun s => by rw [State.hardwareReset_eq_afterReset, reads]⟩
  intro pending draws resets
  simp only [List.mem_cons, List.not_mem_nil, Prod.mk.injEq, or_false] at h
  cases i <;> simp only [reduceCtorEq, false_and, false_or, true_and, or_false] at h <;> subst h
  case rdStatus =>
    rw [exec, execRdStatus, State.statusWord_afterReset]; rfl
  case rdDbgData =>
    rw [exec, execRdDbgData, State.debugData_afterReset, State.debugDraws_idle _ rfl]; rfl
  all_goals rfl

end Sys2Proof.Machine

/-! The host's access as a step, and the accesses that have no key (20_memory R49, R51, R52). -/

namespace Sys2Proof.Machine

/-! ## Accesses without a key -/

theorem accessKey_of_width_ne {a : Access} (inWindow : a.off < 256) (wrongWidth : a.width ≠ 32) :
    accessKey a = .error .width := by
  rw [accessKey, if_neg (Nat.not_le.mpr inWindow), if_pos wrongWidth]

theorem accessKey_of_unaligned {a : Access} (inWindow : a.off < 256) (word : a.width = 32)
    (unaligned : a.off % 4 ≠ 0) : accessKey a = .error .alignment := by
  rw [accessKey, if_neg (Nat.not_le.mpr inWindow), if_neg (not_not.mpr word), if_pos unaligned]

theorem hostAccess_of_width_error {a : Access} (s : State) (noKey : accessKey a = .error .width) :
    hostAccess a s = .fault .busWidth := by
  rw [hostAccess, decodeAccess, noKey]

theorem hostAccess_of_alignment_error {a : Access} (s : State) (noKey : accessKey a = .error .alignment) :
    hostAccess a s = .fault .busAlignment := by
  rw [hostAccess, decodeAccess, noKey]

/-! ## The step of an access -/

/-- On the host's turn a step is the next access of the host, whatever its kind (20_memory R48, R57). -/
theorem step_access {s : State} {a : Access} {rest : List HostEvent} (next : s.pending = .access a :: rest)
    (hostTurn : ¬(s.busy = true ∧ s.turn = .engine)) :
    step s = thenDrawTurn (hostAccess a { s with pending := rest }) := by
  rw [step, machineStep, if_neg hostTurn, hostStep, next]
  rfl

/-- Settles O7: such an access has no key, so the step of the host's access is the fault, and no turn is drawn. -/
theorem badAccessesAreBusErrors : Obligations.BadAccessesAreBusErrors := by
  intro s a rest next hostTurn inWindow
  rw [step_access next hostTurn]
  constructor
  · intro wrongWidth
    rw [hostAccess_of_width_error _ (accessKey_of_width_ne inWindow wrongWidth), thenDrawTurn]
  · intro word unaligned
    rw [hostAccess_of_alignment_error _ (accessKey_of_unaligned inWindow word unaligned), thenDrawTurn]

end Sys2Proof.Machine

/-! The opcode table read row by row (30_encoding R64). -/

namespace Sys2Proof

/-! ## Masked fields -/

theorem keyW_and (k m : Key) : keyW (k &&& m) = (keyW k && keyW m) := BitVec.getLsbD_and

theorem keyOff_and (k m : Key) : keyOff (k &&& m) = keyOff k &&& keyOff m := BitVec.extractLsb'_and

theorem keyData_and (k m : Key) : keyData (k &&& m) = keyData k &&& keyData m := BitVec.extractLsb'_and

theorem cmdOpc_and (d m : Word) : cmdOpc (d &&& m) = cmdOpc d &&& cmdOpc m := BitVec.extractLsb'_and

theorem cmdRsv_and (d m : Word) : cmdRsv (d &&& m) = cmdRsv d &&& cmdRsv m := BitVec.extractLsb'_and

theorem cmdMode_and (d m : Word) : cmdMode (d &&& m) = cmdMode d &&& cmdMode m := BitVec.extractLsb'_and

theorem mkCmd_fields (d : Word) : mkCmd (cmdOpc d) (cmdRsv d) (cmdMode d) = d := by
  have opcAndRsv : cmdOpc d ++ cmdRsv d = d.extractLsb' 4 28 :=
    BitVec.extractLsb'_append_extractLsb'_eq_extractLsb' rfl
  rw [mkCmd, opcAndRsv]
  exact BitVec.extractLsb'_append_extractLsb' (w := 28) (len := 4)

theorem command_and_eq_iff (d m p : Word) :
    d &&& m = p ↔ cmdOpc d &&& cmdOpc m = cmdOpc p ∧ cmdRsv d &&& cmdRsv m = cmdRsv p ∧
      cmdMode d &&& cmdMode m = cmdMode p := by
  rw [← cmdOpc_and, ← cmdRsv_and, ← cmdMode_and]
  constructor
  · rintro rfl
    exact ⟨rfl, rfl, rfl⟩
  · rintro ⟨ho, hr, hm⟩
    rw [← mkCmd_fields (d &&& m), ho, hr, hm, mkCmd_fields]

/-- A row takes a key exactly if each field agrees under the row's mask. -/
theorem rowMatches_iff (k : Key) (r : OpcodeRow) :
    rowMatches k r = true ↔ (keyW k && keyW r.mask) = keyW r.pattern ∧
      keyOff k &&& keyOff r.mask = keyOff r.pattern ∧ keyData k &&& keyData r.mask = keyData r.pattern := by
  rw [rowMatches, beq_iff_eq, ← keyW_and, ← keyOff_and, ← keyData_and]
  constructor
  · intro h
    rw [h]
    exact ⟨rfl, rfl, rfl⟩
  · rintro ⟨hw, ho, hd⟩
    exact key_ext _ _ hw ho hd

/-! ## What one row takes -/

/-- A register row looks at the direction and the offset alone. -/
theorem registerRow_matches (k : Key) (name : String) (w : Bool) (off : BitVec 8) (build : Key → Instr) :
    rowMatches k ⟨name, mkKey w off 0#32, 0x1FF00000000, build⟩ = true ↔ keyW k = w ∧ keyOff k = off := by
  have mask : (0x1FF00000000 : Key) = mkKey true (BitVec.allOnes 8) 0#32 := by decide
  simp only [rowMatches_iff, mask, keyW_mkKey, keyOff_mkKey, keyData_mkKey, Bool.and_true, BitVec.and_allOnes,
    BitVec.and_zero, and_true]

/-- A command row looks at the direction, the offset and the opcode. -/
theorem commandRow_matches (k : Key) (name : String) (opc : BitVec 8) (build : Key → Instr) :
    rowMatches k ⟨name, mkKey true 0x04#8 (mkCmd opc 0#20 0#4), 0x1FFFF000000, build⟩ = true ↔
      keyW k = true ∧ keyOff k = 0x04#8 ∧ cmdOpc (keyData k) = opc := by
  have mask : (0x1FFFF000000 : Key) = mkKey true (BitVec.allOnes 8) (mkCmd (BitVec.allOnes 8) 0#20 0#4) := by decide
  simp only [rowMatches_iff, command_and_eq_iff, mask, keyW_mkKey, keyOff_mkKey, keyData_mkKey, cmdOpc_mkCmd,
    cmdRsv_mkCmd, cmdMode_mkCmd, Bool.and_true, BitVec.and_allOnes, BitVec.and_zero, and_true]

/-- A row that looks at the direction and at no other bit. -/
theorem directionRow_matches (k : Key) (name : String) (build : Key → Instr) :
    rowMatches k ⟨name, 0x00000000000, 0x10000000000, build⟩ = true ↔ keyW k = false := by
  have mask : (0x10000000000 : Key) = mkKey true 0#8 0#32 := by decide
  have pattern : (0x00000000000 : Key) = mkKey false 0#8 0#32 := by decide
  simp only [rowMatches_iff, mask, pattern, keyW_mkKey, keyOff_mkKey, keyData_mkKey, Bool.and_true, BitVec.and_zero,
    and_true]

/-- A row with an empty mask takes every key. -/
theorem emptyMaskRow_matches (k : Key) (name : String) (build : Key → Instr) :
    rowMatches k ⟨name, 0x00000000000, 0x00000000000, build⟩ = true :=
  beq_iff_eq.mpr BitVec.and_zero

/-- A row that looks at the direction takes no key of the other direction. -/
theorem not_rowMatches_of_direction_ne {k : Key} {r : OpcodeRow} (looks : keyW r.mask = true)
    (ne : keyW k ≠ keyW r.pattern) : ¬rowMatches k r = true := by
  rw [rowMatches_iff, looks, Bool.and_true]
  exact fun agree => ne agree.1

/-- A row that looks at the whole offset takes no key of another offset. -/
theorem not_rowMatches_of_offset_ne {k : Key} {r : OpcodeRow} (looks : keyOff r.mask = BitVec.allOnes 8)
    (ne : keyOff k ≠ keyOff r.pattern) : ¬rowMatches k r = true := by
  rw [rowMatches_iff, looks, BitVec.and_allOnes]
  exact fun agree => ne agree.2.1

/-! ## The first row that takes a key -/

/-- The operation of the first of some rows that takes the key. -/
def rowsDecode (rows : List OpcodeRow) (k : Key) : Option Instr :=
  (rows.find? (rowMatches k)).map fun r => r.build k

theorem tableDecode_eq (k : Key) :
    tableDecode k = rowsDecode (commandRows ++ (writeRows ++ (readRows ++ defaultRows))) k := by
  rw [tableDecode, opcodeTable, List.append_assoc, List.append_assoc, rowsDecode]

theorem rowsDecode_cons (r : OpcodeRow) (rows : List OpcodeRow) (k : Key) :
    rowsDecode (r :: rows) k = if rowMatches k r = true then some (r.build k) else rowsDecode rows k := by
  rw [rowsDecode, List.find?_cons]
  cases rowMatches k r <;> rfl

theorem rowsDecode_cons_of_matches {k : Key} {r : OpcodeRow} (takes : rowMatches k r = true) (rows : List OpcodeRow) :
    rowsDecode (r :: rows) k = some (r.build k) := by
  rw [rowsDecode_cons, if_pos takes]

/-- Rows none of which takes the key are skipped. -/
theorem rowsDecode_append_of_no_match {k : Key} {rows : List OpcodeRow} (noMatch : ∀ r ∈ rows, ¬rowMatches k r = true)
    (rows' : List OpcodeRow) : rowsDecode (rows ++ rows') k = rowsDecode rows' k := by
  rw [rowsDecode, List.find?_append, List.find?_eq_none.mpr noMatch, Option.none_or, rowsDecode]

section
variable {k p : Key} {name : String} {build : Key → Instr} {rows : List OpcodeRow} {x y : Instr}

/-- Among keys of its direction, a register row is one offset case of the decoder. -/
theorem rowsDecode_registerRow {w : Bool} {off : BitVec 8} (dir : keyW k = w) (pattern : p = mkKey w off 0#32)
    (operation : build k = x) (rest : rowsDecode rows k = some y) :
    rowsDecode (⟨name, p, 0x1FF00000000, build⟩ :: rows) k = some (if keyOff k = off then x else y) := by
  rw [rowsDecode_cons, pattern, rest, apply_ite some, ← operation]
  exact if_congr ((registerRow_matches k name w off build).trans (and_iff_right dir)) rfl rfl

/-- Among writes to `CMD`, a command row is one opcode case of the decoder. -/
theorem rowsDecode_commandRow {opc : BitVec 8} (write : keyW k = true) (cmd : keyOff k = 0x04#8)
    (pattern : p = mkKey true 0x04#8 (mkCmd opc 0#20 0#4)) (operation : build k = x)
    (rest : rowsDecode rows k = some y) :
    rowsDecode (⟨name, p, 0x1FFFF000000, build⟩ :: rows) k = some (if cmdOpc (keyData k) = opc then x else y) := by
  rw [rowsDecode_cons, pattern, rest, apply_ite some, ← operation]
  refine if_congr ((commandRow_matches k name opc build).trans ?_) rfl rfl
  rw [and_iff_right write, and_iff_right cmd]

end

/-! ## The decoder, part by part -/

theorem rowsDecode_commandRows {k : Key} (write : keyW k = true) (cmd : keyOff k = 0x04#8) (rows : List OpcodeRow) :
    rowsDecode (commandRows ++ rows) k = some (decodeCmd (keyData k)) := by
  unfold decodeCmd
  iterate 5 refine rowsDecode_commandRow write cmd rfl rfl ?_
  exact rowsDecode_cons_of_matches ((registerRow_matches k _ true 0x04#8 _).mpr ⟨write, cmd⟩) _

theorem rowsDecode_readRows {k : Key} (read : keyW k = false) :
    rowsDecode (readRows ++ defaultRows) k = some (decodeRead (keyOff k)) := by
  unfold decodeRead
  iterate 17 refine rowsDecode_registerRow read rfl rfl ?_
  exact rowsDecode_cons_of_matches ((directionRow_matches k _ _).mpr read) _

/-- A read passes the command and write rows. -/
theorem rowsDecode_table_of_read {k : Key} (read : keyW k = false) :
    rowsDecode (commandRows ++ (writeRows ++ (readRows ++ defaultRows))) k = some (decodeRead (keyOff k)) := by
  have ofWrites : ∀ r ∈ commandRows ++ writeRows, keyW r.mask = true ∧ keyW r.pattern = true := by decide
  have noMatch : ∀ r ∈ commandRows ++ writeRows, ¬rowMatches k r = true := by
    intro r hr
    obtain ⟨looks, write⟩ := ofWrites r hr
    exact not_rowMatches_of_direction_ne looks (by rw [read, write]; decide)
  rw [← List.append_assoc, rowsDecode_append_of_no_match noMatch, rowsDecode_readRows read]

/-- A write passes the read rows and `RD_OTHER`. -/
theorem rowsDecode_other {k : Key} (write : keyW k = true) :
    rowsDecode (readRows ++ defaultRows) k = some (.other (keyOff k) (keyData k)) := by
  have ofReads : ∀ r ∈ readRows, keyW r.mask = true ∧ keyW r.pattern = false := by decide
  have noMatch : ∀ r ∈ readRows, ¬rowMatches k r = true := by
    intro r hr
    obtain ⟨looks, read⟩ := ofReads r hr
    exact not_rowMatches_of_direction_ne looks (by rw [write, read]; decide)
  rw [rowsDecode_append_of_no_match noMatch, defaultRows, rowsDecode_cons, if_neg]
  · exact rowsDecode_cons_of_matches (emptyMaskRow_matches k _ _) _
  · rw [directionRow_matches, write]
    decide

/-- A write to another register than `CMD` passes the command rows. -/
theorem rowsDecode_commandRows_append {k : Key} (notCmd : keyOff k ≠ 0x04#8) (rows : List OpcodeRow) :
    rowsDecode (commandRows ++ rows) k = rowsDecode rows k := by
  have ofCmd : ∀ r ∈ commandRows, keyOff r.mask = BitVec.allOnes 8 ∧ keyOff r.pattern = 0x04#8 := by decide
  refine rowsDecode_append_of_no_match (fun r hr => ?_) rows
  obtain ⟨looks, cmd⟩ := ofCmd r hr
  exact not_rowMatches_of_offset_ne looks (by rwa [cmd])

theorem rowsDecode_table_of_write {k : Key} (write : keyW k = true) :
    rowsDecode (commandRows ++ (writeRows ++ (readRows ++ defaultRows))) k =
      some (decodeWrite (keyOff k) (keyData k)) := by
  unfold decodeWrite
  by_cases cmd : keyOff k = 0x04#8
  · rw [if_pos cmd, rowsDecode_commandRows write cmd]
  · rw [if_neg cmd, rowsDecode_commandRows_append cmd]
    iterate 5 refine rowsDecode_registerRow write rfl rfl ?_
    exact rowsDecode_other write

/-- Settles O2: each case of the decoder is one row of the table, in the table's order, and the rows of the other
direction take no such key. -/
theorem decodeIsFirstTableRow : Obligations.DecodeIsFirstTableRow := by
  intro k
  rw [tableDecode_eq, decodeKey]
  cases dir : keyW k with
  | false => exact rowsDecode_table_of_read dir
  | true => exact rowsDecode_table_of_write dir

end Sys2Proof

/-! The decode check of a command word (30_encoding R69). -/

namespace Sys2Proof.Machine

theorem decodeKey_cmd (d : Word) : decodeKey (mkKey true 0x04#8 d) = decodeCmd d := by
  rw [decodeKey, keyW_mkKey, keyOff_mkKey, keyData_mkKey, if_pos rfl, decodeWrite, if_pos rfl]

/-- The commands but `INIT`, whose mode field is reserved. -/
def plainCommands (rsv : BitVec 20) (mode : BitVec 4) : List Instr :=
  [.nop rsv mode, .reset rsv mode, .irBegin rsv mode, .clrErr rsv mode]

theorem decodeCmd_of_illegal {d : Word} (illegal : 5 ≤ (cmdOpc d).toNat) :
    decodeCmd d = .cmdIllegal (cmdOpc d) (cmdRsv d) (cmdMode d) := by
  have ne : ∀ opc : BitVec 8, opc.toNat < 5 → cmdOpc d ≠ opc := by
    rintro opc legal rfl
    omega
  unfold decodeCmd
  iterate 5 rw [if_neg (ne _ (by decide))]

theorem decodeCmd_of_legal {d : Word} (legal : (cmdOpc d).toNat < 5) :
    (cmdOpc d = 0x01#8 ∧ decodeCmd d = .init (cmdRsv d) (cmdMode d)) ∨
      decodeCmd d ∈ plainCommands (cmdRsv d) (cmdMode d) := by
  have opcodes : ∀ opc : BitVec 8, opc.toNat < 5 → opc ∈ [0x00#8, 0x01#8, 0x02#8, 0x03#8, 0x04#8] := by decide
  have opcode := opcodes _ legal
  simp only [List.mem_cons, List.not_mem_nil, or_false] at opcode
  rcases opcode with h | h | h | h | h <;> simp [decodeCmd, plainCommands, h]

/-- The full effect of a failed decode check: the three status fields, and the end of the write. -/
theorem State.written_fail_illegalCmd (s : State) (x : Cause) :
    s.written.fail .illegalCmd x =
      { s with rdata := none, lastErr := .illegalCmd, errCause := x, errSticky := true } := by
  rw [State.fail, State.report, show (s.written.errSticky || Result.illegalCmd != .ok) = true from Bool.or_true _]
  rfl

theorem exec_cmdIllegal (opc : BitVec 8) (rsv : BitVec 20) (mode : BitVec 4) (s : State) :
    exec (.cmdIllegal opc rsv mode) s = .next (s.written.fail .illegalCmd .opcode) := rfl

theorem exec_plainCommand_of_reserved {i : Instr} {rsv : BitVec 20} {mode : BitVec 4} (s : State)
    (plain : i ∈ plainCommands rsv mode) (reserved : rsv ≠ 0#20 ∨ mode ≠ 0#4) :
    exec i s = .next (s.written.fail .illegalCmd .reservedBits) := by
  have notClear : plainCommandBitsClear rsv mode = false := by
    rw [Bool.eq_false_iff, Ne, plainCommandBitsClear_iff, not_and_or]
    exact reserved
  simp only [plainCommands, List.mem_cons, List.not_mem_nil, or_false] at plain
  rcases plain with rfl | rfl | rfl | rfl
  · rw [exec, execNop, notClear, State.checkReserved_false]
  · rw [exec, execReset, notClear, State.checkReserved_false]
  · rw [exec, execIrBegin, notClear, State.checkReserved_false]
  · rw [exec, execClrErr, notClear, State.checkReserved_false]

theorem exec_init_of_reserved {rsv : BitVec 20} (mode : BitVec 4) (s : State) (reserved : rsv ≠ 0#20) :
    exec (.init rsv mode) s = .next (s.written.fail .illegalCmd .reservedBits) := by
  have notClear : initBitsClear rsv = false := by
    rw [Bool.eq_false_iff, Ne, initBitsClear_iff]
    exact reserved
  rw [exec, execInit, notClear, State.checkReserved_false]

/-- Settles O13: an opcode above 4 is the row `CMD_ILLEGAL`; each of the five commands begins with the reserved-bit
check, which is the same for all but `INIT`. -/
theorem commandDecodeCheck : Obligations.CommandDecodeCheck := by
  intro s d failed
  have failed_eq (x : Cause) : failed x = s.written.fail .illegalCmd x := (s.written_fail_illegalCmd x).symm
  rw [decodeKey_cmd, failed_eq, failed_eq]
  refine ⟨fun illegal => ?_, fun legal reserved => ?_, fun opc rsv mode => exec_cmdIllegal opc rsv mode s⟩
  · rw [decodeCmd_of_illegal illegal, exec_cmdIllegal]
  · rcases decodeCmd_of_legal legal with ⟨isInit, decoded⟩ | plain
    · rw [decoded]
      exact exec_init_of_reserved _ s (reserved.resolve_right fun h => h.2 isInit)
    · exact exec_plainCommand_of_reserved s plain (reserved.imp_right And.left)

end Sys2Proof.Machine

/-! Register accesses by offset, and what each setup operation answers (40_setup R75 to R78, R82). -/

namespace Sys2Proof.Machine

/-! ## Keys of register accesses -/

theorem decodeKey_write (off : BitVec 8) (d : Word) : decodeKey (mkKey true off d) = decodeWrite off d := by
  rw [decodeKey, keyW_mkKey, keyOff_mkKey, keyData_mkKey, if_pos rfl]

theorem decodeKey_read (off : BitVec 8) (d : Word) : decodeKey (mkKey false off d) = decodeRead off := by
  rw [decodeKey, keyW_mkKey, keyOff_mkKey, if_neg Bool.false_ne_true]

/-! ## The status update in full -/

theorem State.fail_eq (s : State) {c : Result} (x : Cause) (notOk : c ≠ .ok) :
    s.fail c x = { s with lastErr := c, errCause := x, errSticky := true } := by
  rw [State.fail, State.report, bne_iff_ne.mpr notOk, Bool.or_true]

theorem State.succeed_eq (s : State) : s.succeed = { s with lastErr := .ok, errCause := .none } := by
  rw [State.succeed, State.report, bne_self_eq_false, Bool.or_false]

/-- The full effect of a write rejected because the engine is busy (60_exceptions R131). -/
theorem State.written_checkBusy_of_busy {s : State} (body : State) (busy : s.busy = true) :
    s.written.checkBusy body = { s with rdata := none, lastErr := .busy, errCause := .none, errSticky := true } :=
  (State.checkBusy_busy s.written body busy).trans (State.fail_eq s.written .none nofun)

/-! ## Setup writes -/

theorem exec_irBegin (s : State) :
    exec (.irBegin 0#20 0#4) s = .next (s.written.checkBusy (State.succeed { s.written with irWptr := 0#32 })) := rfl

theorem exec_wrIrData (s : State) (d : Word) :
    exec (.wrIrData d) s = .next (s.written.checkBusy (s.written.appendIr d)) := rfl

theorem State.appendIr_of_full {s : State} (d : Word) (full : Config.nMax ≤ s.irWptr.toNat) :
    s.appendIr d = s.fail .capacity .irFull :=
  ((s.appendIr_cases d).resolve_right fun h => Nat.not_lt.mpr full h.1).2

theorem State.appendIr_of_room {s : State} (d : Word) (room : s.irWptr.toNat < Config.nMax) :
    s.appendIr d =
      State.succeed { s with irbuf := Memory.write s.irbuf s.irWptr.toNat d, irWptr := s.irWptr + 1#32 } :=
  ((s.appendIr_cases d).resolve_left fun h => Nat.not_le.mpr room h.1).2

theorem exec_init (s : State) (mode : BitVec 4) :
    exec (.init 0#20 mode) s = .next (s.written.checkBusy (s.written.tryInit mode)) := rfl

/-- Settles O15: the reserved bits are checked first, then busy; an accepted `IR_BEGIN` writes the count alone. -/
theorem irBeginRestartsTheCount : Obligations.IrBeginRestartsTheCount := by
  intro s
  refine ⟨by decide, fun rsv mode reserved => ?_, fun busy => ?_, fun idle => ?_⟩
  · rw [exec_plainCommand_of_reserved s (by simp [plainCommands]) reserved, s.written_fail_illegalCmd]
  · rw [exec_irBegin, State.written_checkBusy_of_busy _ busy]
  · rw [exec_irBegin, State.checkBusy_idle s.written _ idle, State.succeed_eq]
    rfl

/-- Settles O17: the three writes are the offsets' own rows and store the word without a check. -/
theorem configWritesOnlyStore : Obligations.ConfigWritesOnlyStore := by
  intro s d
  rw [decodeKey_write, decodeKey_write, decodeKey_write, decodeKey_read]
  exact ⟨⟨rfl, rfl, rfl⟩, ⟨rfl, rfl, rfl⟩, rfl, rfl, rfl, rfl⟩

/-- Settles O18: after the busy check a write fails on a full `IRBUF` or is one `Memory.write` at `IR_WPTR`. -/
theorem irDataAppendsOneSample : Obligations.IrDataAppendsOneSample := by
  intro s d
  refine ⟨by rw [decodeKey_write]; rfl, fun busy => ?_, fun idle full => ?_, fun idle room => ?_⟩
  · rw [exec_wrIrData, State.written_checkBusy_of_busy _ busy]
  · rw [exec_wrIrData, State.checkBusy_idle s.written _ idle, State.appendIr_of_full (s := s.written) d full,
      State.fail_eq (c := .capacity) _ _ nofun]
    rfl
  · refine ⟨Memory.write s.irbuf s.irWptr.toNat d, ?_, Memory.read?_write_same .., fun i other =>
      Memory.read?_write_ne _ _ _ _ other⟩
    rw [exec_wrIrData, State.checkBusy_idle s.written _ idle, State.appendIr_of_room (s := s.written) d room,
      State.succeed_eq]
    rfl

/-- Settles O32: each offset has its own row, and the read responds with the register. -/
theorem plainReadsReturnTheirRegister : Obligations.PlainReadsReturnTheirRegister := by
  intro s reads
  have row {off : BitVec 8} {i : Instr} {w : Word} (decoded : decodeRead off = i)
      (answers : exec i s = .next (s.respond w)) : reads off i w :=
    ⟨(decodeKey_read off 0#32).trans decoded, answers⟩
  exact ⟨row rfl rfl, row rfl rfl, row rfl rfl, row rfl rfl, row rfl rfl, row rfl rfl, row rfl rfl, row rfl rfl,
    row rfl rfl, row rfl rfl⟩

/-- Settles O21: an `INIT` is one failure or is accepted, and an accepted one ends with `OK`. -/
theorem rejectedInitKeepsTheEngine : Obligations.RejectedInitKeepsTheEngine := by
  refine ⟨fun s t rsv mode ran rejected => ?_, fun s mode c x idle check notOk => ?_⟩
  · cases exec_write_effect _ s t rfl ran with
    | failed _ c x _ notOk => exact State.fail_eq s.written x notOk
    | init _ _ _ => exact absurd rfl rejected
  · rw [exec_init, State.checkBusy_idle s.written _ idle]
    rcases State.tryInit_cases s.written mode with ⟨accepted, _⟩ | ⟨c', x', check', _, answer⟩
    · exact absurd ((congrArg Prod.fst check).symm.trans accepted) notOk
    · obtain ⟨rfl, rfl⟩ := Prod.mk.inj (check.symm.trans check')
      rw [answer, State.fail_eq _ _ notOk]
      rfl

end Sys2Proof.Machine

/-! `INIT_CHECK` in arithmetic terms (40_setup R80). -/

namespace Sys2Proof.Machine

/-- The bit formula of the power-of-two check (40_setup R80). -/
theorem and_pred_eq_zero_iff_isPow2 {b : Nat} (pos : 0 < b) : b &&& (b - 1) = 0 ↔ IsPow2 b :=
  Nat.and_sub_one_eq_zero_iff_isPowerOfTwo pos.ne'

/-- Past both mode checks the mode is 1. -/
theorem mode_checks_pass_iff (mode : BitVec 4) (rest : Prop) :
    (¬mode = 0#4 ∧ ¬2 ≤ mode.toNat ∧ rest) ↔ mode.toNat = 1 ∧ rest := by
  have zero : mode = 0#4 ↔ mode.toNat = 0 := BitVec.toNat_eq
  rw [zero, ← and_assoc]
  exact and_congr_left' (by omega)

/-- Settles O19: `INIT_CHECK` gives an answer when its check fails and those before it pass; past the mode and sign
checks the bit formula means a power of two, and the other checks are the stated conditions. -/
theorem initCheckReportsTheFirstFailure : Obligations.InitCheckReportsTheFirstFailure := by
  intro caps mode cfgB cfgN irCount r b n modeOk bOk nOk words
  have pow2 (checks : Prop → Prop) :
      (modeOk ∧ 0 < b ∧ checks (b.toNat &&& (b.toNat - 1) = 0)) ↔ modeOk ∧ 0 < b ∧ checks (IsPow2 b.toNat) :=
    and_congr_right' (and_congr_right fun pos => by rw [and_pred_eq_zero_iff_isPow2 (by omega)])
  simp only [r, initCheck, ite_eq_iff, Prod.mk.injEq, reduceCtorEq, and_true, and_false, or_false, false_or,
    mode_checks_pass_iff]
  simp only [int32, not_le, not_lt, ne_eq, not_not, bOk, nOk, and_assoc]
  have unknownMode : (¬mode = 0#4 ∧ 2 ≤ mode.toNat) ↔ 2 ≤ mode.toNat :=
    and_iff_right_of_imp (by rintro large rfl; exact absurd large (by decide))
  exact ⟨BitVec.toNat_eq, unknownMode, .rfl, pow2 Not, pow2 (· ∧ _), pow2 (· ∧ _), pow2 (· ∧ _), pow2 (· ∧ _),
    pow2 (· ∧ _), pow2 (· ∧ _)⟩

end Sys2Proof.Machine

/-! The partition of the impulse response into blocks (40_setup R83). -/

namespace Sys2Proof.Machine

theorem blockCount_pred_mul_lt {n : Nat} (b : Nat) (hn : 1 ≤ n) : (blockCount n b - 1) * b < n :=
  calc (blockCount n b - 1) * b = (n - 1) / b * b := by rw [blockCount, Nat.add_sub_cancel]
    _ ≤ n - 1 := Nat.div_mul_le_self _ _
    _ < n := by omega

theorem le_blockCount_mul (n : Nat) {b : Nat} (hb : 1 ≤ b) : n ≤ blockCount n b * b := by
  have below : n - 1 < (n - 1) / b * b + b := Nat.lt_div_mul_add hb
  rw [blockCount, Nat.add_mul, Nat.one_mul]
  omega

theorem irBlock_getElem? {α : Type} (D : Datapath α) (ir : Nat → α) (n b j : Nat) {k : Nat} (inside : k < 2 * b) :
    (irBlock D ir n b j)[k]? = some (if k < b ∧ j * b + k < n then ir (j * b + k) else D.zero) := by
  rw [irBlock, List.getElem?_map, List.getElem?_range inside, Option.map_some]

/-- Settles O26: sample `i` stands where division by `B` puts it, and `NB` is the quotient rounded up. -/
theorem impulseResponsePartition : Obligations.ImpulseResponsePartition := by
  intro α D ir n b hb hn
  refine ⟨fun j k => irBlock_getElem? D ir n b j, fun i hi => ⟨?_, ?_⟩, blockCount_pred_mul_lt b hn,
    le_blockCount_mul n hb⟩
  · exact (Nat.div_lt_iff_lt_mul hb).mpr (hi.trans_le (le_blockCount_mul n hb))
  · have inBlock : i % b < b := Nat.mod_lt i hb
    have place : i / b * b + i % b = i := Nat.div_add_mod' i b
    rw [irBlock_getElem? D ir n b _ (by omega), place, if_pos ⟨inBlock, hi⟩]

end Sys2Proof.Machine

/-! Push, output and tail length as host operations (41_streaming R88, R90, R97). -/

namespace Sys2Proof.Machine

/-! ## The push -/

theorem exec_wrDin (s : State) (x : Word) : exec (.wrDin x) s = .next (s.written.checkBusy (s.written.tryPush x)) := rfl

theorem State.tryPush_of_uninit {s : State} (x : Word) (uninit : s.phase = .uninit) :
    s.tryPush x = s.fail .notInit .none :=
  ((s.tryPush_cases x).resolve_right fun h => h.1 uninit).2

theorem State.tryPush_of_ready {s : State} (x : Word) (ready : s.phase = .ready) :
    s.tryPush x = (s.acceptPush x).succeed :=
  ((s.tryPush_cases x).resolve_left fun h => by simp [ready] at h).2

theorem State.not_busy_of_uninit {s : State} (uninit : s.phase = .uninit) : s.busy = false := by
  simp [State.busy, uninit]

theorem State.not_busy_of_ready {s : State} (ready : s.phase = .ready) : s.busy = false := by
  simp [State.busy, ready]

/-- The frame of an accepted push. -/
theorem exec_wrDin_of_ready {s : State} (x : Word) (ready : s.phase = .ready) :
    exec (.wrDin x) s = .next { s with
      rdata := none, hist := Memory.write s.hist (s.hcur * (2 * s.b) + s.iib) x, iib := s.iib + 1
      dout := pushOutput (blockDatapath s.resets) s.toEngine, doutValid := true
      overrun := s.overrun || s.doutValid, phase := if s.iib + 1 = s.b then .blockBusy else .ready
      lastErr := .ok, errCause := .none } := by
  rw [exec_wrDin, State.checkBusy_idle s.written _ (State.not_busy_of_ready ready),
    State.tryPush_of_ready (s := s.written) x ready, State.succeed_eq, ← ready]
  rfl

theorem pushOutput_of_written {α : Type} (D : Datapath α) {e : Engine α} {v : α}
    (written : Memory.read? e.acc e.iib = some v) : pushOutput D e = v :=
  D.word_of_read? _ _ _ _ written

/-- Settles O23: after the busy check a push fails in `UNINIT` or is one `Memory.write` at the cursor, its output taken
from `ACC` before. -/
theorem pushEmitsThenStores : Obligations.PushEmitsThenStores := by
  intro s x
  refine ⟨by rw [decodeKey_write]; rfl, fun busy => ?_, fun uninit => ?_, fun ready => ?_⟩
  · rw [exec_wrDin, State.written_checkBusy_of_busy _ busy]
  · rw [exec_wrDin, State.checkBusy_idle s.written _ (State.not_busy_of_uninit uninit),
      State.tryPush_of_uninit (s := s.written) x uninit, State.fail_eq (c := .notInit) _ _ nofun]
    rfl
  · exact ⟨_, _, exec_wrDin_of_ready x ready, fun v written => pushOutput_of_written _ written,
      Memory.read?_write_same .., fun i other => Memory.read?_write_ne _ _ _ _ other⟩

/-! ## The reads -/

/-- Settles O24: the offset's own row, and the one read that clears a flag. -/
theorem readingDoutClearsItsFlag : Obligations.ReadingDoutClearsItsFlag :=
  ⟨decodeKey_read 0x24#8 0#32, fun _ => rfl⟩

theorem exec_rdTailLen (s : State) : exec .rdTailLen s = .next (s.respond s.tailLen) := rfl

/-- Settles O25: `STATE` alone chooses between the tail length and the sentinel. -/
theorem tailLengthOrSentinel : Obligations.TailLengthOrSentinel := by
  refine ⟨decodeKey_read 0x28#8 0#32, fun s => ⟨fun running => ?_, fun notRunning => ?_⟩⟩
  · rw [exec_rdTailLen, State.tailLen, if_pos running, State.respond]
  · rw [exec_rdTailLen, State.tailLen, if_neg, State.respond, tailSentinel]
    rcases notRunning with h | h <;> simp [h]

end Sys2Proof.Machine

/-! What `PMAC` and the block flush leave, word by word, over any arithmetic (41_streaming R92 to R95). -/

namespace Sys2Proof.Machine

variable {α : Type}

/-! ## Blocks of words -/

theorem Datapath.word_congr (D : Datapath α) (sel : MemSel) {m m' : Memory α} {i : Nat}
    (same : Memory.read? m i = Memory.read? m' i) : D.word sel m i = D.word sel m' i := by
  rw [Datapath.word, Datapath.word, same]

theorem Datapath.words_congr (D : Datapath α) (sel : MemSel) {m m' : Memory α} {base len : Nat}
    (same : ∀ k, k < len → Memory.read? m (base + k) = Memory.read? m' (base + k)) :
    D.words sel m base len = D.words sel m' base len :=
  List.map_congr_left fun k hk => D.word_congr sel (same k (List.mem_range.mp hk))

theorem Datapath.words_append (D : Datapath α) (sel : MemSel) (m : Memory α) (base a b : Nat) :
    D.words sel m base (a + b) = D.words sel m base a ++ D.words sel m (base + a) b := by
  simp [Datapath.words, List.range_add, Nat.add_assoc, Function.comp_def]

/-- Reading back a block just written. -/
theorem Datapath.words_writeAll (D : Datapath α) (sel : MemSel) (m : Memory α) (base : Nat) {len : Nat} {vs : List α}
    (length : vs.length = len) : D.words sel (Memory.writeAll m base vs) base len = vs := by
  subst length
  refine List.ext_getElem (by simp) fun k hk hv => ?_
  simp [Datapath.words, Datapath.word, Memory.read?_writeAll_of_lt _ _ _ _ hv, hv]

theorem Memory.read?_writeAll_outside (m : Memory α) {base i : Nat} {vs : List α}
    (outside : i < base ∨ base + vs.length ≤ i) : Memory.read? (Memory.writeAll m base vs) i = Memory.read? m i := by
  rw [Memory.read?_writeAll, if_neg (by omega)]

theorem Datapath.words_transformInPlace (D : Datapath α) (dir : FftDir) (sel : MemSel) (m : Memory α) (base len : Nat)
    (length : (D.fftResponse dir (D.words sel m base len)).length = len) :
    D.words sel (D.transformInPlace dir sel m base len).1 base len = D.fftResponse dir (D.words sel m base len) :=
  D.words_writeAll sel m base length

/-! ## `PMAC` -/

theorem read?_pmac_acc (D : Datapath α) (e : Engine α) (j s : Nat) {k : Nat} (hk : k < 2 * e.b) :
    Memory.read? (pmac D e j s).acc k =
      some (pmacWord D e.b (fun k => D.word .irspec e.irspec (j * (2 * e.b) + k))
        (fun k => D.word .hist e.hist (s * (2 * e.b) + k)) (D.word .acc e.acc k) k) := by
  rw [pmac, ← Nat.zero_add k, Memory.read?_writeAll_of_lt _ _ _ _ (by simpa [Engine.len] using hk), Nat.zero_add,
    List.getElem?_map, List.getElem?_range (show k < e.len from hk)]
  rfl

theorem pmacWord_real (D : Datapath α) {b k : Nat} (h x : Nat → α) (old : α) (real : k = 0 ∨ k = b) :
    pmacWord D b h x old k = D.add old (D.mul (D.mul (h k) (x k)) (D.scale (2 * b))) := if_pos real

/-- The real part of an interior bin. -/
theorem pmacWord_low (D : Datapath α) {b k : Nat} (h x : Nat → α) (old : α) (pos : 1 ≤ k) (low : k < b) :
    pmacWord D b h x old k =
      D.add old (D.mul (D.sub (D.mul (h k) (x k)) (D.mul (h (2 * b - k)) (x (2 * b - k)))) (D.scale (2 * b))) :=
  (if_neg (by omega)).trans (if_pos low)

/-- The imaginary part of an interior bin. -/
theorem pmacWord_high (D : Datapath α) {b k : Nat} (h x : Nat → α) (old : α) (pos : 1 ≤ k) (high : b < k) :
    pmacWord D b h x old k =
      D.add old (D.mul (D.add (D.mul (h (2 * b - k)) (x k)) (D.mul (h k) (x (2 * b - k)))) (D.scale (2 * b))) :=
  (if_neg (by omega)).trans (if_neg (by omega))

theorem pastSlot_eq {hcur nb r : Nat} (hr : r < nb) : pastSlot hcur nb r = (hcur + nb - r) % nb := by
  have shift : (hcur : Int) - r = ((hcur + nb - r : Nat) : Int) - nb := by omega
  rw [pastSlot, shift, Int.sub_emod_right]
  rfl

/-- Settles O28: the words of `ACC` are the cases of `pmacWord`, where bin `L - i` mirrors bin `i`. -/
theorem pmacAccumulatesEveryBin : Obligations.PmacAccumulatesEveryBin := by
  intro α D e j s hb f l h x a scale
  have word {k : Nat} (hk : k < 2 * e.b) : Memory.read? f.acc k = some (pmacWord D e.b h x (a k) k) :=
    read?_pmac_acc D e j s hk
  refine ⟨rfl, ?_, ?_, fun i pos low => ⟨?_, ?_⟩, rfl, fun r hr => pastSlot_eq hr⟩
  · rw [word (by omega), pmacWord_real D h x _ (.inl rfl)]
  · rw [word (by omega), pmacWord_real D h x _ (.inr rfl)]
  · rw [word (by omega), pmacWord_low D h x _ pos low]
  · have mirror : 2 * e.b - (l - i) = i := by omega
    rw [word (by omega), pmacWord_high D h x _ (by omega) (by omega), mirror]

/-! ## The phases of a flush -/

/-- The engine after flush steps (a) to (d): `ACC` holds the accumulated spectrum (41_streaming R92). -/
def flushAccumulated (D : Datapath α) (e : Engine α) : Engine α :=
  flushAccumulate D (flushSave D (flushTransform D e))

/-- The accumulation changes `ACC` alone. -/
theorem flushAccumulated_frame (D : Datapath α) (e : Engine α) :
    ∃ acc, flushAccumulated D e = { flushSave D (flushTransform D e) with acc := acc } :=
  flushAccumulate_frame D (flushSave D (flushTransform D e))

theorem flushAccumulated_b (D : Datapath α) (e : Engine α) : (flushAccumulated D e).b = e.b := by
  obtain ⟨acc, frame⟩ := flushAccumulated_frame D e
  rw [frame]
  rfl

theorem flushAccumulated_saved (D : Datapath α) (e : Engine α) :
    (flushAccumulated D e).saved = Memory.writeAll e.saved 0 (D.words .acc e.acc e.b e.b) := by
  obtain ⟨acc, frame⟩ := flushAccumulated_frame D e
  rw [frame]
  rfl

theorem flushAccumulated_hist (D : Datapath α) (e : Engine α) :
    (flushAccumulated D e).hist = (flushTransform D e).hist := by
  obtain ⟨acc, frame⟩ := flushAccumulated_frame D e
  rw [frame]
  rfl

/-- The spectrum that a flush sends to its inverse transform (41_streaming R92 (e)). -/
def flushSpectrum (D : Datapath α) (e : Engine α) : List α := D.words .acc (flushAccumulated D e).acc 0 (2 * e.b)

theorem flushSpectrum_length (D : Datapath α) (e : Engine α) : (flushSpectrum D e).length = 2 * e.b :=
  D.words_length ..

theorem read?_flushAccumulated_saved (D : Datapath α) (e : Engine α) {k : Nat} (hk : k < e.b) :
    Memory.read? (flushAccumulated D e).saved k = some (D.word .acc e.acc (e.b + k)) := by
  rw [flushAccumulated_saved, ← Nat.zero_add k, Memory.read?_writeAll_of_lt _ _ _ _ (by simpa using hk)]
  simp [Datapath.words, hk]

/-- After the accumulation no step writes `SAVED`. -/
theorem blockFlush_saved (D : Datapath α) (e : Engine α) : (blockFlush D e).saved = (flushAccumulated D e).saved := rfl

/-- After step (a) no step writes `HIST`. -/
theorem blockFlush_hist (D : Datapath α) (e : Engine α) : (blockFlush D e).hist = (flushTransform D e).hist :=
  flushAccumulated_hist D e

theorem blockFlush_acc (D : Datapath α) (e : Engine α) :
    (blockFlush D e).acc = (flushOverlap D (flushInverse D (flushAccumulated D e))).acc := rfl

theorem slot_end (s b : Nat) : (s + 1) * (2 * b) = s * (2 * b) + 2 * b := Nat.succ_mul ..

section
variable (D : Datapath α) (e : Engine α) (fwdLength : KeepsLength (2 * e.b) D.fwd)
include fwdLength

/-- The block that is filled is transformed with zeros behind it (41_streaming R93). -/
theorem words_blockFlush_hist :
    D.words .hist (blockFlush D e).hist (e.hcur * (2 * e.b)) (2 * e.b) =
      D.fwd (D.words .hist e.hist (e.hcur * (2 * e.b)) e.b ++ D.zeros e.b) := by
  have padded : D.words .hist (Memory.writeAll e.hist (e.hcur * (2 * e.b) + e.b) (D.zeros e.b)) (e.hcur * (2 * e.b))
      (2 * e.b) = D.words .hist e.hist (e.hcur * (2 * e.b)) e.b ++ D.zeros e.b := by
    rw [Nat.two_mul, D.words_append, D.words_writeAll _ _ _ (D.zeros_length _)]
    congr 1
    exact D.words_congr _ fun k hk => Memory.read?_writeAll_outside _ (.inl (by omega))
  rw [blockFlush_hist, ← padded]
  exact D.words_transformInPlace .forward .hist _ _ _ (fwdLength _ (D.words_length ..))

theorem read?_blockFlush_hist_outside {i : Nat} (outside : i < e.hcur * (2 * e.b) ∨ (e.hcur + 1) * (2 * e.b) ≤ i) :
    Memory.read? (blockFlush D e).hist i = Memory.read? e.hist i := by
  rw [slot_end] at outside
  rw [blockFlush_hist]
  refine (D.transformInPlace_outside .forward .hist _ _ _ i (fwdLength _ (D.words_length ..)) outside).trans ?_
  refine Memory.read?_writeAll_outside _ ?_
  rw [D.zeros_length, Engine.len]
  omega

end

theorem read?_flushInverse_acc (D : Datapath α) (e : Engine α) (invLength : KeepsLength (2 * e.b) D.inv) {k : Nat}
    (hk : k < 2 * e.b) :
    Memory.read? (flushInverse D e).acc k = (D.inv (D.words .acc e.acc 0 (2 * e.b)))[k]? := by
  have inside : k < (D.inv (D.words .acc e.acc 0 (2 * e.b))).length := by
    rwa [invLength _ (D.words_length ..)]
  rw [← Memory.read?_writeAll_of_lt e.acc 0 k _ inside, Nat.zero_add]
  rfl

theorem read?_flushOverlap_acc (D : Datapath α) (e : Engine α) (k : Nat) :
    Memory.read? (flushOverlap D e).acc k =
      if k < e.b then some (D.add (D.word .acc e.acc k) (D.word .saved e.saved k)) else Memory.read? e.acc k := by
  rw [flushOverlap, Memory.read?_writeAll]
  by_cases hk : k < e.b <;> simp [hk]

/-- `ACC` after a flush: the inverse transform, and over its first half the overlap-add (41_streaming R95). -/
theorem read?_blockFlush_acc (D : Datapath α) (e : Engine α) (invLength : KeepsLength (2 * e.b) D.inv) {k : Nat} {v : α}
    (response : (D.inv (flushSpectrum D e))[k]? = some v) :
    Memory.read? (blockFlush D e).acc k =
      some (if k < e.b then D.add v (D.word .acc e.acc (e.b + k)) else v) := by
  have hk : k < 2 * e.b := by
    rw [← invLength _ (flushSpectrum_length D e)]
    exact (List.getElem?_eq_some_iff.mp response).1
  have sameB := flushAccumulated_b D e
  have inverse : Memory.read? (flushInverse D (flushAccumulated D e)).acc k = some v := by
    rw [read?_flushInverse_acc D _ (by rwa [sameB]) (by rwa [sameB]), sameB]
    exact response
  rw [blockFlush_acc, read?_flushOverlap_acc, D.word_of_read? _ _ _ _ inverse, inverse]
  change (if k < (flushAccumulated D e).b then some (D.add v (D.word .saved (flushAccumulated D e).saved k)) else _) = _
  rw [sameB]
  split
  · next low => rw [D.word_of_read? _ _ _ _ (read?_flushAccumulated_saved D e low)]
  · rfl

/-- Settles O30, phase by phase: only the transform writes `HIST`, only the save writes `SAVED`, and the inverse
transform and the overlap-add are the last to write `ACC`. -/
theorem blockFlushOverlapsAndAdds : Obligations.BlockFlushOverlapsAndAdds := by
  intro α D e _ fwdLength invLength f block
  obtain ⟨b, n, nb, irspec, iib, hcur⟩ := blockFlush_frame D e
  refine ⟨flushSpectrum D e, flushSpectrum_length D e, rfl, words_blockFlush_hist D e fwdLength,
    fun i outside => read?_blockFlush_hist_outside D e fwdLength outside,
    fun k hk => ⟨?_, fun v response => ?_, ?_⟩, hcur, iib, b, n, nb, irspec⟩
  · rw [blockFlush_saved, read?_flushAccumulated_saved D e hk]
  · rw [read?_blockFlush_acc D e invLength response, if_pos hk]
  · have inside : e.b + k < (D.inv (flushSpectrum D e)).length := by
      rw [invLength _ (flushSpectrum_length D e)]
      omega
    have response := List.getElem?_eq_getElem inside
    rw [response, read?_blockFlush_acc D e invLength response, if_neg (by omega)]

end Sys2Proof.Machine

/-! Linear convolution in blocks: sequences as signals on the integers, cut into zero-padded blocks of length `2B`
(00_scope R15, 40_setup R83). -/

namespace Sys2Proof.Machine

open Finset (sum_congr sum_range_succ sum_range_add sum_eq_zero sum_add_distrib sum_subset)

variable {R : Type} [CommRing R]

/-- The sequence as a signal on the integers, 0 outside its range (00_scope R15). -/
def signal (v : List R) (i : ℤ) : R := if 0 ≤ i then v.getD i.toNat 0 else 0

/-- Block `q` of a signal, with as many zeros behind it. -/
def signalBlock (v : List R) (b : ℕ) (q : ℤ) : List R :=
  (List.range (2 * b)).map fun k => if k < b then signal v (q * b + k) else 0

/-- Word `t` of the linear convolution of block `j` of `h` and block `q` of `x`. -/
def blockConv (h x : List R) (b : ℕ) (j q : ℤ) (t : ℕ) : R :=
  ∑ p ∈ Finset.range b, if p ≤ t ∧ t < p + b then signal h (j * b + p) * signal x (q * b + (t - p)) else 0

/-- Word `t` of the inverse transform in the flush of block `q`: the blocks of `h` against the blocks of `x` up to
`q`. -/
def blockSum (h x : List R) (b nb : ℕ) (q : ℤ) (t : ℕ) : R :=
  ∑ j ∈ Finset.range nb, blockConv h x b j (q - j) t

/-- The linear convolution on the integers. -/
def signalConv (h x : List R) (t : ℤ) : R := ∑ p ∈ Finset.range h.length, signal h p * signal x (t - p)

/-! ## Signals -/

theorem signal_natCast (v : List R) (i : ℕ) : signal v i = v.getD i 0 := by
  simp [signal]

theorem signal_of_neg (v : List R) {i : ℤ} (neg : i < 0) : signal v i = 0 := if_neg (by omega)

theorem signal_of_length_le (v : List R) {i : ℕ} (beyond : v.length ≤ i) : signal v i = 0 := by
  rw [signal_natCast, List.getD_eq_default _ _ beyond]

theorem signalConv_of_neg (h x : List R) {t : ℤ} (neg : t < 0) : signalConv h x t = 0 :=
  sum_eq_zero fun p _ => by rw [signal_of_neg x (by omega), mul_zero]

theorem sum_map_range (n : ℕ) (f : ℕ → R) : ((List.range n).map f).sum = ∑ k ∈ Finset.range n, f k := rfl

theorem signalConv_natCast (h x : List R) (t : ℕ) : signalConv h x t = linconv h x t := by
  rw [linconv, sum_map_range]
  refine sum_congr rfl fun p _ => ?_
  split
  · next le => rw [← Nat.cast_sub le, signal_natCast, signal_natCast]
  · next gt => rw [signal_of_neg x (by omega), mul_zero]

/-! ## Blocks -/

/-- The words of a block before the signal stand at negative indices. -/
theorem index_neg {b : ℕ} {q k : ℤ} (neg : q < 0) (hk : k < b) : q * b + k < 0 := by
  nlinarith [mul_nonneg (show (0 : ℤ) ≤ -1 - q by omega) (Nat.cast_nonneg (α := ℤ) b)]

@[simp] theorem signalBlock_length (v : List R) (b : ℕ) (q : ℤ) : (signalBlock v b q).length = 2 * b := by
  simp [signalBlock]

theorem signalBlock_getD (v : List R) (b : ℕ) (q : ℤ) (k : ℕ) :
    (signalBlock v b q).getD k 0 = if k < b then signal v (q * b + k) else 0 := by
  by_cases inside : k < 2 * b
  · simp [signalBlock, List.getD, inside]
  · rw [List.getD_eq_default _ _ (by simpa using inside), if_neg (by omega)]

theorem signalBlock_eq_append (v : List R) (b : ℕ) (q : ℤ) :
    signalBlock v b q = (List.range b).map (fun k : ℕ => signal v (q * b + k)) ++ List.replicate b 0 := by
  rw [signalBlock, Nat.two_mul, List.range_add, List.map_append]
  congr 1
  · exact List.map_congr_left fun k hk => if_pos (List.mem_range.mp hk)
  · rw [List.map_map, List.eq_replicate_iff]
    simp

theorem signalBlock_of_neg (v : List R) (b : ℕ) {q : ℤ} (neg : q < 0) :
    signalBlock v b q = List.replicate (2 * b) 0 := by
  refine List.eq_replicate_iff.mpr ⟨by simp, fun w hw => ?_⟩
  obtain ⟨k, _, rfl⟩ := List.mem_map.mp hw
  refine ite_eq_right_iff.mpr fun hk => signal_of_neg v ?_
  exact index_neg neg (by omega)

/-- The impulse-response blocks of 40_setup R83 are the blocks of the signal `h`. -/
theorem irBlock_eq_signalBlock (fwd inv : List R → List R) (unwritten : MemSel → ℕ → R) (h : List R) (b j : ℕ) :
    irBlock (exactDatapath fwd inv unwritten) (fun i => h.getD i 0) h.length b j = signalBlock h b j := by
  refine List.map_congr_left fun k _ => ?_
  have index : (j : ℤ) * b + k = ((j * b + k : ℕ) : ℤ) := by push_cast; ring
  rw [index]
  by_cases low : k < b
  · by_cases within : j * b + k < h.length
    · rw [if_pos ⟨low, within⟩, if_pos low, signal_natCast]
    · rw [if_neg (by omega), if_pos low, signal_of_length_le h (by omega)]
      rfl
  · rw [if_neg (by omega), if_neg low]
    rfl

/-! ## Convolution in blocks -/

/-- The definition casts the indexes to the integers before it maps over them; here they stay numbers. -/
theorem circconv_eq (l : ℕ) (a b : List R) :
    circconv l a b = (List.range l).map fun t : ℕ =>
      ∑ m ∈ Finset.range l, a.getD m 0 * b.getD (((t : ℤ) - m) % l).toNat 0 := by
  simp [circconv, ← List.map_eq_flatMap, Function.comp_def, sum_map_range]

/-- Blocks with zeros behind them convolve without wrapping around. -/
theorem circconv_signalBlock (h x : List R) (b : ℕ) (j q : ℤ) :
    circconv (2 * b) (signalBlock h b j) (signalBlock x b q) = (List.range (2 * b)).map (blockConv h x b j q) := by
  rw [circconv_eq]
  refine List.map_congr_left fun t ht => ?_
  have inside : t < 2 * b := List.mem_range.mp ht
  rw [Nat.two_mul, sum_range_add, ← Nat.two_mul, blockConv]
  have secondHalf : ∑ p ∈ Finset.range b, (signalBlock h b j).getD (b + p) 0 *
      (signalBlock x b q).getD (((t : ℤ) - (b + p : ℕ)) % (2 * b : ℕ)).toNat 0 = 0 :=
    sum_eq_zero fun p _ => by rw [signalBlock_getD, if_neg (by omega), zero_mul]
  rw [secondHalf, add_zero]
  refine sum_congr rfl fun p hp => ?_
  have hpb : p < b := Finset.mem_range.mp hp
  rw [signalBlock_getD, if_pos hpb, signalBlock_getD]
  by_cases le : p ≤ t
  · have place : (((t : ℤ) - p) % (2 * b : ℕ)).toNat = t - p := by
      rw [Int.emod_eq_of_lt (by omega) (by omega)]; omega
    rw [place, Nat.cast_sub le]
    by_cases low : t < p + b
    · rw [if_pos (by omega), if_pos ⟨le, low⟩]
    · rw [if_neg (by omega), if_neg (by omega), mul_zero]
  · have place : (((t : ℤ) - p) % (2 * b : ℕ)).toNat = t + 2 * b - p := by
      rw [← Int.add_emod_right, Int.emod_eq_of_lt (by omega) (by omega)]; omega
    rw [place, if_neg (by omega), if_neg (by omega), mul_zero]

theorem sum_range_mul (nb b : ℕ) (f : ℕ → R) :
    ∑ i ∈ Finset.range (nb * b), f i = ∑ j ∈ Finset.range nb, ∑ p ∈ Finset.range b, f (j * b + p) := by
  induction nb with
  | zero => simp
  | succ nb ih => rw [Nat.succ_mul, sum_range_add, ih, sum_range_succ]

theorem signalConv_eq_sum_blocks {h : List R} (x : List R) {b nb : ℕ} (covers : h.length ≤ nb * b) (t : ℤ) :
    signalConv h x t =
      ∑ j ∈ Finset.range nb, ∑ p ∈ Finset.range b, signal h (j * b + p) * signal x (t - (j * b + p)) := by
  have extend : signalConv h x t = ∑ i ∈ Finset.range (nb * b), signal h i * signal x (t - i) := by
    refine sum_subset (Finset.range_mono covers) fun i _ beyond => ?_
    rw [signal_of_length_le h (by simpa using beyond), zero_mul]
  rw [extend, sum_range_mul]
  push_cast
  rfl

/-- Overlap-add: of the block that `t` falls in, the low words; of the block before, the words that ran over. -/
theorem blockSum_overlap {h : List R} (x : List R) {b nb : ℕ} (covers : h.length ≤ nb * b) (q : ℤ) {k : ℕ}
    (hk : k < b) :
    blockSum h x b nb q k + blockSum h x b nb (q - 1) (b + k) = signalConv h x (q * b + k) := by
  rw [signalConv_eq_sum_blocks x covers, blockSum, blockSum, ← sum_add_distrib]
  refine sum_congr rfl fun j _ => ?_
  rw [blockConv, blockConv, ← sum_add_distrib]
  refine sum_congr rfl fun p hp => ?_
  have hpb : p < b := Finset.mem_range.mp hp
  by_cases le : p ≤ k
  · rw [if_pos (by omega), if_neg (by omega), add_zero]
    congr 2; ring
  · rw [if_neg (by omega), if_pos (by omega), zero_add]
    congr 2; push_cast; ring

/-- A block before the signal adds nothing. -/
theorem blockSum_of_neg (h x : List R) (b nb : ℕ) {q : ℤ} (neg : q < 0) (t : ℕ) : blockSum h x b nb q t = 0 := by
  refine sum_eq_zero fun j _ => sum_eq_zero fun p _ => ite_eq_right_iff.mpr fun ⟨_, wraps⟩ => ?_
  rw [signal_of_neg x (index_neg (by omega) (by omega)), mul_zero]

end Sys2Proof.Machine

/-! The engine in exact arithmetic: one FFT pair turns the spectral multiply-accumulate into convolution in blocks
(41_streaming R94, R100, 43_fft_port R119). -/

namespace Sys2Proof.Machine

variable {R : Type} [CommRing R]

theorem LinearOn.map_zeros {l : ℕ} {f : List R → List R} (linear : LinearOn l f) (keeps : KeepsLength l f) :
    f (List.replicate l 0) = List.replicate l 0 := by
  have scaled := linear.2 0 (List.replicate l 0) List.length_replicate
  simp only [zero_mul, List.map_const', List.length_replicate, keeps _ List.length_replicate] at scaled
  exact scaled

theorem Datapath.words_getD {α : Type} (D : Datapath α) (sel : MemSel) (m : Memory α) (base : ℕ) {len k : ℕ}
    (hk : k < len) (d : α) : (D.words sel m base len).getD k d = D.word sel m (base + k) := by
  simp [Datapath.words, List.getD, hk]

section
variable (fwd inv : List R → List R) (unwritten : MemSel → ℕ → R)

/-- In exact arithmetic a word of `PMAC` adds the bin of the product of the spectra, times `K` (00_scope R14, R15). -/
theorem pmacWord_exact {b k : ℕ} {h x : ℕ → R} {p q : List R} (old : R) (hk : k < 2 * b)
    (hp : ∀ i, i < 2 * b → p.getD i 0 = h i) (hq : ∀ i, i < 2 * b → q.getD i 0 = x i) :
    pmacWord (exactDatapath fwd inv unwritten) b h x old k = old + ((2 * b : ℕ) : R) * (pmul (2 * b) p q).getD k 0 := by
  have bin : (pmul (2 * b) p q).getD k 0 =
      if k = 0 ∨ 2 * k = 2 * b then h k * x k
      else if 2 * k < 2 * b then h k * x k - p.getD (2 * b - k) 0 * q.getD (2 * b - k) 0
      else p.getD (2 * b - k) 0 * x k + h k * q.getD (2 * b - k) 0 := by
    simp [pmul, List.getD, hk, ← hp k hk, ← hq k hk]
  rw [bin]
  by_cases real : k = 0 ∨ k = b
  · rw [if_pos (by omega), pmacWord_real _ h x old real]
    exact congrArg (old + ·) (mul_comm _ _)
  · rw [if_neg (by omega), hp _ (by omega), hq _ (by omega)]
    by_cases low : k < b
    · rw [if_pos (by omega), pmacWord_low _ h x old (by omega) low]
      exact congrArg (old + ·) (mul_comm _ _)
    · rw [if_neg (by omega), pmacWord_high _ h x old (by omega) (by omega)]
      exact congrArg (old + ·) (mul_comm _ _)

theorem words_pmac_exact (e : Engine R) (j s : ℕ) :
    let D := exactDatapath fwd inv unwritten
    D.words .acc (pmac D e j s).acc 0 (2 * e.b) =
      List.zipWith (fun a c => a + c) (D.words .acc e.acc 0 (2 * e.b))
        ((pmul (2 * e.b) (D.words .irspec e.irspec (j * (2 * e.b)) (2 * e.b))
          (D.words .hist e.hist (s * (2 * e.b)) (2 * e.b))).map fun c => ((2 * e.b : ℕ) : R) * c) := by
  intro D
  refine List.ext_getElem (by simp [pmul]) fun k hk _ => ?_
  have hk : k < 2 * e.b := by simpa using hk
  have word := D.word_of_read? .acc _ _ _ (read?_pmac_acc D e j s hk)
  rw [pmacWord_exact fwd inv unwritten _ hk (fun i hi => D.words_getD .irspec e.irspec _ hi 0)
    (fun i hi => D.words_getD .hist e.hist _ hi 0)] at word
  have product : k < (pmul (2 * e.b) (D.words .irspec e.irspec (j * (2 * e.b)) (2 * e.b))
      (D.words .hist e.hist (s * (2 * e.b)) (2 * e.b))).length := by
    simpa [pmul] using hk
  rw [List.getD_eq_getElem _ _ product] at word
  simpa [Datapath.words] using word

variable {b : ℕ} (contract : ConvolvesExactly (2 * b) fwd inv)
include contract

/-- One `PMAC` adds one block convolution to the inverse transform of `ACC` (43_fft_port R119 P1, P2). -/
theorem inv_words_pmac (e : Engine R) (hb : e.b = b) (j s : ℕ) {u v : List R} (hu : u.length = 2 * b)
    (hv : v.length = 2 * b) :
    let D := exactDatapath fwd inv unwritten
    D.words .irspec e.irspec (j * (2 * b)) (2 * b) = fwd u → D.words .hist e.hist (s * (2 * b)) (2 * b) = fwd v →
    inv (D.words .acc (pmac D e j s).acc 0 (2 * b)) =
      List.zipWith (fun a c => a + c) (inv (D.words .acc e.acc 0 (2 * b))) (circconv (2 * b) u v) := by
  subst hb
  intro D spectrum history
  rw [words_pmac_exact, spectrum, history, contract.invLinear.1 _ _ (D.words_length ..) (by simp [pmul]),
    contract.convolution u v hu hv]

/-- The calls of a flush, run up to `r`, over spectra of `h` and a history that ends with block `q` of `x`. -/
theorem inv_words_pmacs (h x : List R) (q : ℤ) (slot : ℕ → ℕ) (e : Engine R) (hb : e.b = b) (r : ℕ) :
    let D := exactDatapath fwd inv unwritten
    D.words .acc e.acc 0 (2 * b) = D.zeros (2 * b) →
    (∀ j, j < r → D.words .irspec e.irspec (j * (2 * b)) (2 * b) = fwd (signalBlock h b j)) →
    (∀ j, j < r → D.words .hist e.hist (slot j * (2 * b)) (2 * b) = fwd (signalBlock x b (q - j))) →
    inv (D.words .acc ((List.range r).foldl (fun a j => pmac D a j (slot j)) e).acc 0 (2 * b)) =
      (List.range (2 * b)).map (blockSum h x b r q) := by
  intro D cleared spectra history
  induction r with
  | zero =>
    rw [List.range_zero, List.foldl_nil, cleared]
    refine (contract.invLinear.map_zeros contract.invLength).trans ?_
    refine (List.eq_replicate_iff.mpr ⟨by simp, fun w hw => ?_⟩).symm
    obtain ⟨t, _, rfl⟩ := List.mem_map.mp hw
    exact Finset.sum_range_zero _
  | succ r ih =>
    obtain ⟨acc, frame⟩ := pmacAll_frame D slot (List.range r) e
    specialize ih (fun j hj => spectra j (by omega)) (fun j hj => history j (by omega))
    rw [List.range_succ, List.foldl_append, List.foldl_cons, List.foldl_nil]
    rw [inv_words_pmac fwd inv unwritten contract _ (by rw [frame]; exact hb) r (slot r) (signalBlock_length ..)
      (signalBlock_length ..) (by rw [frame]; exact spectra r (by omega)) (by rw [frame]; exact history r (by omega)),
      ih, circconv_signalBlock]
    refine List.ext_getElem (by simp) fun t _ _ => ?_
    simp [blockSum, Finset.sum_range_succ]

end

end Sys2Proof.Machine

/-! What the initialization sequence leaves in the engine memories, over any arithmetic (40_setup R84, R85). -/

namespace Sys2Proof.Machine

variable {α : Type}

/-- An index in one slot of a memory lies outside every other slot. -/
theorem slot_outside {s c l k : ℕ} (ne : s ≠ c) (hk : k < l) : s * l + k < c * l ∨ (c + 1) * l ≤ s * l + k := by
  rcases Nat.lt_or_gt_of_ne ne with lt | gt
  · have := Nat.mul_le_mul_right l (show s + 1 ≤ c from lt)
    rw [Nat.succ_mul] at this
    omega
  · have := Nat.mul_le_mul_right l (show c + 1 ≤ s from gt)
    omega

section
variable (D : Datapath α) (ir : ℕ → α) (e : Engine α) (fwdLength : KeepsLength (2 * e.b) D.fwd)
include fwdLength

theorem words_initBlock_same (j : ℕ) :
    D.words .irspec (initBlock D ir e j).irspec (j * (2 * e.b)) (2 * e.b) = D.fwd (irBlock D ir e.n e.b j) := by
  have stored := D.words_writeAll .irspec e.irspec (j * (2 * e.b)) (irBlock_length D ir e.n e.b j)
  refine (D.words_transformInPlace .forward .irspec _ _ _ (fwdLength _ (D.words_length ..))).trans ?_
  exact congrArg D.fwd stored

theorem words_initBlock_ne {i j : ℕ} (ne : i ≠ j) :
    D.words .irspec (initBlock D ir e j).irspec (i * (2 * e.b)) (2 * e.b) =
      D.words .irspec e.irspec (i * (2 * e.b)) (2 * e.b) := by
  refine D.words_congr _ fun k hk => ?_
  have outside := slot_outside ne hk
  rw [slot_end] at outside
  refine (D.transformInPlace_outside .forward .irspec _ _ _ _ (fwdLength _ (D.words_length ..)) outside).trans ?_
  refine Memory.read?_writeAll_outside _ ?_
  rw [irBlock_length, Engine.len]
  exact outside

theorem words_initBlocks (r : ℕ) {j : ℕ} (hj : j < r) :
    D.words .irspec ((List.range r).foldl (initBlock D ir) e).irspec (j * (2 * e.b)) (2 * e.b) =
      D.fwd (irBlock D ir e.n e.b j) := by
  induction r with
  | zero => omega
  | succ r ih =>
    obtain ⟨irspec, port, frame⟩ := initBlocks_frame D ir (List.range r) e
    have sameB : ((List.range r).foldl (initBlock D ir) e).b = e.b := by rw [frame]
    have sameN : ((List.range r).foldl (initBlock D ir) e).n = e.n := by rw [frame]
    have last := words_initBlock_same D ir ((List.range r).foldl (initBlock D ir) e) (by rwa [sameB]) r
    have others := words_initBlock_ne D ir ((List.range r).foldl (initBlock D ir) e) (by rwa [sameB]) (i := j) (j := r)
    rw [sameB] at last others
    rw [List.range_succ, List.foldl_append, List.foldl_cons, List.foldl_nil]
    by_cases same : j = r
    · rw [same, last, sameN]
    · rw [others same, ih (by omega)]

/-- Each impulse-response block stands transformed in its slot of `IRSPEC`. -/
theorem words_initSequence_irspec {j : ℕ} (hj : j < e.nb) :
    D.words .irspec (initSequence D ir e).irspec (j * (2 * e.b)) (2 * e.b) = D.fwd (irBlock D ir e.n e.b j) :=
  words_initBlocks D ir e fwdLength e.nb hj

end

section
variable (D : Datapath α) (ir : ℕ → α) (e : Engine α)

theorem initSequence_config :
    (initSequence D ir e).b = e.b ∧ (initSequence D ir e).n = e.n ∧ (initSequence D ir e).nb = e.nb ∧
      (initSequence D ir e).iib = 0 ∧ (initSequence D ir e).hcur = 0 := by
  obtain ⟨irspec, port, shape⟩ := initSequence_shape D ir e
  rw [shape]
  exact ⟨rfl, rfl, rfl, rfl, rfl⟩

theorem word_writeAll_zeros (sel : MemSel) (m : Memory α) {len i : ℕ} (hi : i < len) :
    D.word sel (Memory.writeAll m 0 (D.zeros len)) i = D.zero := by
  refine D.word_of_read? _ _ _ _ ?_
  rw [← Nat.zero_add i, Memory.read?_writeAll_of_lt _ _ _ _ (by simpa using hi)]
  simp [Datapath.zeros, hi]

theorem word_initSequence_hist {i : ℕ} (hi : i < e.nb * (2 * e.b)) :
    D.word .hist (initSequence D ir e).hist i = D.zero := by
  obtain ⟨irspec, port, shape⟩ := initSequence_shape D ir e
  rw [shape]
  exact word_writeAll_zeros D _ _ hi

theorem word_initSequence_acc {i : ℕ} (hi : i < 2 * e.b) : D.word .acc (initSequence D ir e).acc i = D.zero := by
  obtain ⟨irspec, port, shape⟩ := initSequence_shape D ir e
  rw [shape]
  exact word_writeAll_zeros D _ _ hi

end

end Sys2Proof.Machine

/-! The exact output law: what the engine holds between two pushes, in terms of the signals (41_streaming R87, R100). -/

namespace Sys2Proof.Machine

variable {R : Type} [CommRing R]

/-! ## The history ring -/

/-- The slot of `HIST` that block `q` of the signal goes to (10_state R36). -/
def ringSlot (nb : ℕ) (q : ℤ) : ℕ := (q % nb).toNat

theorem ringSlot_cast {nb : ℕ} (pos : 1 ≤ nb) (q : ℤ) : (ringSlot nb q : ℤ) = q % nb :=
  Int.toNat_of_nonneg (Int.emod_nonneg q (by omega))

theorem ringSlot_lt {nb : ℕ} (pos : 1 ≤ nb) (q : ℤ) : ringSlot nb q < nb := by
  have := Int.emod_lt_of_pos q (show (0 : ℤ) < nb by omega)
  have := ringSlot_cast pos q
  omega

theorem pastSlot_ringSlot {nb : ℕ} (pos : 1 ≤ nb) (q : ℤ) (j : ℕ) :
    pastSlot (ringSlot nb q) nb j = ringSlot nb (q - j) := by
  rw [pastSlot, ringSlot_cast pos, Int.emod_sub_emod]
  rfl

theorem ringSlot_succ {nb : ℕ} (pos : 1 ≤ nb) (q : ℤ) : (ringSlot nb q + 1) % nb = ringSlot nb (q + 1) := by
  apply Int.natCast_inj.mp
  push_cast
  rw [ringSlot_cast pos, ringSlot_cast pos, Int.emod_add_emod]

/-- Fewer than `NB` blocks apart, two blocks have two slots. -/
theorem ringSlot_ne {nb : ℕ} {q m : ℤ} (before : q < m) (recent : m - nb < q) : ringSlot nb q ≠ ringSlot nb m := by
  have pos : 1 ≤ nb := by omega
  intro same
  have residues : q % nb = m % nb := by rw [← ringSlot_cast pos, same, ringSlot_cast pos]
  have divides : (m - q) % nb = 0 := by rw [Int.sub_emod, residues, sub_self, Int.zero_emod]
  rw [Int.emod_eq_of_lt (by omega) (by omega)] at divides
  omega

/-! ## The invariant of the stream -/

/-- `m` blocks have been flushed and `i` samples of block `m` stored: the cursors, the spectra of `h`, the history
of the last `NB - 1` blocks, and both halves of `ACC`. -/
structure Streaming (D : Datapath R) (h x : List R) (b nb m i : ℕ) (e : Engine R) : Prop where
  blockLength : e.b = b
  blocks : e.nb = nb
  index : e.iib = i
  cursor : e.hcur = ringSlot nb m
  spectra : ∀ j, j < nb → D.words .irspec e.irspec (j * (2 * b)) (2 * b) = D.fwd (signalBlock h b j)
  past : ∀ q : ℤ, m - nb < q → q < m →
    D.words .hist e.hist (ringSlot nb q * (2 * b)) (2 * b) = D.fwd (signalBlock x b q)
  current : ∀ k, k < i → D.word .hist e.hist (ringSlot nb m * (2 * b) + k) = signal x (m * b + k)
  outputs : ∀ k, k < b → D.word .acc e.acc k = signalConv h x ((m - 1 : ℤ) * b + k)
  residue : ∀ k, k < b → D.word .acc e.acc (b + k) = blockSum h x b nb (m - 1) (b + k)

section
variable {D : Datapath R} {h x : List R} {b nb m i : ℕ} {e : Engine R}

theorem Streaming.pushStore (s : Streaming D h x b nb m i e) (hi : i < b) :
    Streaming D h x b nb m (i + 1) (pushStore e (signal x (m * b + i))) where
  blockLength := s.blockLength
  blocks := s.blocks
  index := congrArg (· + 1) s.index
  cursor := s.cursor
  spectra := s.spectra
  outputs := s.outputs
  residue := s.residue
  past q recent before := by
    rw [← s.past q recent before]
    refine D.words_congr _ fun k hk => Memory.read?_write_ne _ _ _ _ ?_
    have outside := slot_outside (ringSlot_ne before recent) hk
    rw [slot_end] at outside
    rw [s.cursor, s.index, Engine.len, s.blockLength]
    omega
  current k hk := by
    rcases Nat.lt_succ_iff_lt_or_eq.mp hk with lt | rfl
    · rw [← s.current k lt]
      refine D.word_congr _ (Memory.read?_write_ne _ _ _ _ ?_)
      rw [s.cursor, s.index, Engine.len, s.blockLength]
      omega
    · refine D.word_of_read? _ _ _ _ ?_
      rw [Machine.pushStore, s.cursor, s.index, Engine.len, s.blockLength]
      exact Memory.read?_write_same ..

theorem Streaming.pushOutput (s : Streaming D h x b nb m i e) (hi : i < b) :
    pushOutput D e = signalConv h x ((m - 1 : ℤ) * b + i) := by
  rw [Machine.pushOutput, s.index, s.outputs i hi]

end

section
variable {fwd inv : List R → List R} {unwritten : MemSel → ℕ → R} {b nb : ℕ} {h : List R} (x : List R)
  (contract : ConvolvesExactly (2 * b) fwd inv)
include contract

theorem streaming_initSequence {e : Engine R} (hb : e.b = b) (hnb : e.nb = nb) (pos : 1 ≤ nb) (hn : e.n = h.length) :
    Streaming (exactDatapath fwd inv unwritten) h x b nb 0 0
      (initSequence (exactDatapath fwd inv unwritten) (fun i => h.getD i 0) e) := by
  subst hb hnb
  let D := exactDatapath fwd inv unwritten
  obtain ⟨b, n, nb, iib, hcur⟩ := initSequence_config D (fun i => h.getD i 0) e
  have early {k : ℕ} (hk : k < e.b) : ((0 : ℕ) - 1 : ℤ) * e.b + k < 0 := index_neg (by decide) (by omega)
  refine ⟨b, nb, iib, ?_, fun j hj => ?_, fun q recent before => ?_, fun k hk => absurd hk (Nat.not_lt_zero k),
    fun k hk => ?_, fun k hk => ?_⟩
  · rw [hcur]; simp [ringSlot]
  · rw [words_initSequence_irspec D _ e contract.fwdLength hj, hn, irBlock_eq_signalBlock]
  · refine Eq.trans ?_ (congrArg fwd (signalBlock_of_neg x e.b (by simpa using before))).symm
    rw [contract.fwdLinear.map_zeros contract.fwdLength]
    refine List.eq_replicate_iff.mpr ⟨D.words_length .., fun w hw => ?_⟩
    obtain ⟨k, hk, rfl⟩ := List.mem_map.mp hw
    have := Nat.mul_le_mul_right (2 * e.b) (ringSlot_lt pos q)
    rw [Nat.succ_mul] at this
    exact word_initSequence_hist D _ e (by have := List.mem_range.mp hk; omega)
  · rw [signalConv_of_neg h x (early hk)]
    exact word_initSequence_acc D _ e (by omega)
  · rw [blockSum_of_neg h x _ _ (by decide)]
    exact word_initSequence_acc D _ e (by omega)

variable {m : ℕ} {e : Engine R}

/-- After a flush the history ends with the block just filled. -/
theorem Streaming.words_blockFlush_hist (s : Streaming (exactDatapath fwd inv unwritten) h x b nb m b e) {q : ℤ}
    (recent : m - nb < q) (upTo : q ≤ m) :
    (exactDatapath fwd inv unwritten).words .hist (Machine.blockFlush (exactDatapath fwd inv unwritten) e).hist
      (ringSlot nb q * (2 * b)) (2 * b) = fwd (signalBlock x b q) := by
  obtain rfl := s.blockLength
  let D := exactDatapath fwd inv unwritten
  rcases upTo.lt_or_eq with before | rfl
  · refine Eq.trans (D.words_congr _ fun k hk => ?_) (s.past q recent before)
    refine read?_blockFlush_hist_outside D e contract.fwdLength ?_
    rw [s.cursor]
    exact slot_outside (ringSlot_ne before recent) hk
  · have filled : D.words .hist e.hist (ringSlot nb m * (2 * e.b)) e.b =
        (List.range e.b).map fun k : ℕ => signal x (m * e.b + k) :=
      List.map_congr_left fun k hk => s.current k (List.mem_range.mp hk)
    have flushed := Machine.words_blockFlush_hist D e contract.fwdLength
    rw [s.cursor, filled] at flushed
    rw [signalBlock_eq_append]
    exact flushed

theorem Streaming.inv_flushSpectrum (s : Streaming (exactDatapath fwd inv unwritten) h x b nb m b e) (pos : 1 ≤ nb) :
    inv (flushSpectrum (exactDatapath fwd inv unwritten) e) = (List.range (2 * b)).map (blockSum h x b nb m) := by
  have hist := fun j (hj : j < nb) => s.words_blockFlush_hist x contract (q := m - j) (by omega) (by omega)
  obtain rfl := s.blockLength
  obtain rfl := s.blocks
  let D := exactDatapath fwd inv unwritten
  refine inv_words_pmacs fwd inv unwritten contract h x m (pastSlot e.hcur e.nb) (flushSave D (flushTransform D e)) rfl
    e.nb (D.words_writeAll _ _ _ (D.zeros_length _)) s.spectra fun j hj => ?_
  rw [s.cursor, pastSlot_ringSlot pos, ← hist j hj, blockFlush_hist]
  rfl

theorem Streaming.blockFlush (s : Streaming (exactDatapath fwd inv unwritten) h x b nb m b e) (pos : 1 ≤ nb)
    (covers : h.length ≤ nb * b) :
    Streaming (exactDatapath fwd inv unwritten) h x b nb (m + 1) 0
      (Machine.blockFlush (exactDatapath fwd inv unwritten) e) := by
  let D := exactDatapath fwd inv unwritten
  have spectrum := s.inv_flushSpectrum x contract pos
  have hist := fun q => s.words_blockFlush_hist x contract (q := q)
  obtain rfl := s.blockLength
  obtain rfl := s.blocks
  obtain ⟨b, n, nb, irspec, iib, hcur⟩ := blockFlush_frame D e
  have acc {k : ℕ} (hk : k < 2 * e.b) := read?_blockFlush_acc D e contract.invLength (k := k)
    (v := blockSum h x e.b e.nb m k) (by rw [show D.inv _ = _ from spectrum]; simp [hk])
  refine ⟨b, nb, iib, ?_, fun j hj => ?_, fun q recent before => hist q (by push_cast at recent; omega) (by omega),
    fun k hk => absurd hk (Nat.not_lt_zero k), fun k hk => ?_, fun k hk => ?_⟩
  · rw [hcur, s.cursor, ringSlot_succ pos, Nat.cast_succ]
  · rw [irspec]; exact s.spectra j hj
  · rw [D.word_of_read? _ _ _ _ (acc (by omega)), if_pos hk, s.residue k hk, Nat.cast_succ, add_sub_cancel_right]
    exact blockSum_overlap x covers m hk
  · rw [D.word_of_read? _ _ _ _ (acc (by omega)), if_neg (by omega), Nat.cast_succ, add_sub_cancel_right]

end

/-! ## Pushes -/

/-- `t` samples have been pushed and every full block flushed. -/
def StreamedTo (D : Datapath R) (h x : List R) (b nb t : ℕ) (e : Engine R) : Prop :=
  ∃ m i, i < b ∧ m * b + i = t ∧ Streaming D h x b nb m i e

section
variable {fwd inv : List R → List R} {unwritten : MemSel → ℕ → R} {b nb : ℕ} {h x : List R}
  (contract : ConvolvesExactly (2 * b) fwd inv) (pos : 1 ≤ nb) (covers : h.length ≤ nb * b)
include contract pos covers

theorem StreamedTo.pushAndFlush {t : ℕ} {e : Engine R} (s : StreamedTo (exactDatapath fwd inv unwritten) h x b nb t e) :
    (pushAndFlush (exactDatapath fwd inv unwritten) e (signal x t)).1 = signalConv h x (t - b) ∧
      StreamedTo (exactDatapath fwd inv unwritten) h x b nb (t + 1)
        (pushAndFlush (exactDatapath fwd inv unwritten) e (signal x t)).2 := by
  obtain ⟨m, i, hi, rfl, s⟩ := s
  have stored := s.pushStore hi
  push_cast
  refine ⟨?_, ?_⟩
  · refine (s.pushOutput hi).trans (congrArg _ ?_)
    ring
  · rw [Machine.pushAndFlush, stored.index, stored.blockLength]
    dsimp only
    split
    · next full =>
      subst full
      exact ⟨m + 1, 0, by omega, by ring, stored.blockFlush x contract pos covers⟩
    · exact ⟨m, i + 1, by omega, rfl, stored⟩

theorem StreamedTo.pushAll {t : ℕ} {e : Engine R} (s : StreamedTo (exactDatapath fwd inv unwritten) h x b nb t e)
    (xs : List R) (samples : ∀ k (hk : k < xs.length), xs[k] = signal x (t + k : ℕ)) {k : ℕ} (hk : k < xs.length) :
    (pushAll (exactDatapath fwd inv unwritten) e xs).1[k]? = some (signalConv h x ((t + k : ℕ) - b)) := by
  induction xs generalizing t e k with
  | nil => exact absurd hk (Nat.not_lt_zero k)
  | cons v vs ih =>
    obtain rfl : v = signal x t := samples 0 (Nat.succ_pos _)
    obtain ⟨output, next⟩ := s.pushAndFlush contract pos covers
    cases k with
    | zero => exact congrArg some output
    | succ k =>
      have rest := ih next (fun k hk => ?_) (Nat.lt_of_succ_lt_succ hk)
      · rw [Nat.add_right_comm t 1 k] at rest
        exact rest
      · rw [Nat.add_right_comm t 1 k]
        exact samples (k + 1) (Nat.succ_lt_succ hk)

end

/-- Settles O57: the invariant of the stream holds after the initialization and each push keeps it, and its `ACC` is the
convolution one block behind. -/
theorem exactOutputLaw : Obligations.ExactOutputLaw := by
  intro fwd inv unwritten e h x hb hn _ hnb contract D start t ht
  have pos : 1 ≤ e.nb := by rw [hnb]; exact Nat.succ_pos _
  have covers : h.length ≤ e.nb * e.b := by rw [hnb, hn]; exact le_blockCount_mul _ hb
  have begun : StreamedTo D h x e.b e.nb 0 start :=
    ⟨0, 0, hb, by simp, streaming_initSequence x contract rfl rfl pos hn⟩
  rw [begun.pushAll contract pos covers x (fun k hk => ?_) ht, Nat.zero_add]
  · split
    · next early => rw [signalConv_of_neg h x (by omega)]
    · next running => rw [← Nat.cast_sub (Nat.not_lt.mp running), signalConv_natCast]
  · rw [Nat.zero_add, signal_natCast, List.getD_eq_getElem _ _ hk]

end Sys2Proof.Machine

/-! Commands but `INIT` and `IR_BEGIN` (42_control R102 to R104), the debug window (R110, R111), the `STATUS` word
(R106), and the offsets that no register takes (R112, R113). -/

namespace Sys2Proof.Machine

/-! ## The debug window -/

theorem exec_rdDbgData (s : State) :
    exec .rdDbgData s =
      .next { s with rdata := some s.debugData, draws := if s.debugDraws then s.draws + 1 else s.draws } := rfl

/-- Only an engine memory read while busy draws a free value (42_control R110). -/
theorem State.debugDraws_eq_false {s : State} (noDraw : ¬(msel s.dbgSel < 4 ∧ s.busy = true)) : s.debugDraws = false := by
  rw [Bool.eq_false_iff, Ne, State.debugDraws, Bool.and_eq_true, decide_eq_true_iff]
  exact noDraw

/-- A word that is shown below a limit and 0 from there on (42_control R110, R111), on the written words of a memory. -/
theorem shown_below_limit {resets : Nat} {sel : MemSel} {memory : Memory Word} {i limit : Nat} {w : Word}
    (shown : w = if i < limit then blockWord resets sel memory i else 0#32) :
    (limit ≤ i → w = 0#32) ∧ (i < limit → ∀ v, Memory.read? memory i = some v → w = v) := by
  refine ⟨fun outside => shown.trans (if_neg outside.not_gt), fun inside v written => ?_⟩
  rw [shown, if_pos inside]
  exact (blockDatapath resets).word_of_read? sel memory i v written

/-- `IRBUF` is readable in every `STATE` (42_control R110). -/
theorem State.debugData_of_irbuf {s : State} (irbuf : msel s.dbgSel = 4) :
    s.debugData = if didx s.dbgSel < Config.nMax then blockWord s.resets .irbuf s.irbuf (didx s.dbgSel) else 0#32 :=
  if_pos irbuf

/-- The selects past the five memories (42_control R110). -/
theorem State.debugData_of_unassigned {s : State} (unassigned : 4 < msel s.dbgSel) : s.debugData = 0#32 :=
  (if_neg unassigned.ne').trans (if_pos unassigned)

theorem State.debugData_of_ready {s : State} {m : Nat} (ready : s.phase = .ready) (selected : msel s.dbgSel = m)
    (engine : m < 4) :
    s.debugData = if didx s.dbgSel < s.debugLimit m then s.debugWord m (didx s.dbgSel) else 0#32 := by
  have initialized : s.phase ≠ .uninit := by simp [ready]
  have idle : s.busy ≠ true := by simp [State.not_busy_of_ready ready]
  rw [State.debugData, selected, if_neg engine.ne, if_neg engine.not_gt, if_neg initialized, if_neg idle]
  simp only [← Nat.not_lt, ite_not]

/-- Settles O35: the select alone says which memory is shown, `STATE` whether it is, and the limit where it ends. -/
theorem debugWindowReadsTheSelectedWord : Obligations.DebugWindowReadsTheSelectedWord := by
  refine ⟨decodeKey_read 0x44#8 0#32, fun s => ⟨_, _, exec_rdDbgData s, ?draws, ?irbufOutside, ?irbufInside,
    State.debugData_of_unassigned, fun engine uninit => State.debugData_uninit s uninit engine.ne, ?ready⟩⟩
  case draws =>
    intro noDraw
    rw [State.debugDraws_eq_false noDraw, if_neg Bool.false_ne_true]
  case irbufOutside => exact fun irbuf => (shown_below_limit (State.debugData_of_irbuf irbuf)).1
  case irbufInside => exact fun irbuf => (shown_below_limit (State.debugData_of_irbuf irbuf)).2
  case ready =>
    intro ready
    have shows {m : Nat} (engine : m < 4) (selected : msel s.dbgSel = m) :=
      State.debugData_of_ready ready selected engine
    exact ⟨fun acc => shown_below_limit (sel := .acc) (shows (by decide) acc),
      fun saved => shown_below_limit (sel := .saved) (shows (by decide) saved),
      fun hist => shown_below_limit (sel := .hist) (shows (by decide) hist),
      fun irspec => shown_below_limit (sel := .irspec) (shows (by decide) irspec)⟩

/-! ## Commands -/

theorem exec_nop (s : State) : exec (.nop 0#20 0#4) s = .next s.written.succeed := rfl

theorem exec_clrErr (s : State) :
    exec (.clrErr 0#20 0#4) s = .next (State.succeed { s.written with errSticky := false, overrun := false }) := rfl

theorem exec_reset (s : State) : exec (.reset 0#20 0#4) s = .next (s.written.checkBusy s.written.resetCommand) := rfl

/-- The failing form of a command with a reserved bit set, in full (30_encoding R69). -/
theorem exec_plainCommand_fails {i : Instr} {rsv : BitVec 20} {mode : BitVec 4} (s : State)
    (plain : i ∈ plainCommands rsv mode) (reserved : rsv ≠ 0#20 ∨ mode ≠ 0#4) :
    exec i s = .next { s with rdata := none, lastErr := .illegalCmd, errCause := .reservedBits, errSticky := true } := by
  rw [exec_plainCommand_of_reserved s plain reserved, s.written_fail_illegalCmd]

/-- Settles O11: with its reserved bits clear `NOP` is `ok()` and no more. -/
theorem nopOnlyReportsOk : Obligations.NopOnlyReportsOk := by
  refine fun s => ⟨by decide, ?_, fun rsv mode => exec_plainCommand_fails s (by simp [plainCommands])⟩
  rw [exec_nop, State.succeed_eq]
  rfl

/-- Settles O12: with its reserved bits clear `CLR_ERR` clears the two flags before its `ok()`. -/
theorem clrErrClearsTheStickyFlags : Obligations.ClrErrClearsTheStickyFlags := by
  refine fun s => ⟨by decide, ?_, fun rsv mode => exec_plainCommand_fails s (by simp [plainCommands])⟩
  rw [exec_clrErr, State.succeed_eq]
  rfl

/-- Settles O14: the reserved bits are checked first, then busy; an accepted `RESET` empties the engine memories. -/
theorem resetCommandDiscardsTheEngine : Obligations.ResetCommandDiscardsTheEngine := by
  refine fun s => ⟨by decide, fun rsv mode => exec_plainCommand_fails s (by simp [plainCommands]), fun busy => ?_,
    fun idle => ⟨[], [], [], [], ?_⟩⟩
  · rw [exec_reset, State.written_checkBusy_of_busy _ busy]
  · rw [exec_reset, State.checkBusy_idle s.written _ idle, State.resetCommand, State.succeed_eq]
    rfl

/-! ## The `STATUS` word -/

theorem EngState.code_lt (p : EngState) : p.code < 2 ^ 2 := by cases p <;> decide

theorem Result.code_lt (c : Result) : c.code < 2 ^ 3 := by cases c <;> decide

theorem Cause.code_lt (x : Cause) : x.code < 2 ^ 4 := by cases x <;> decide

/-- Each field of `STATUS` fits its bits (10_state R23). -/
theorem State.statusFields_lt (s : State) :
    s.phase.code < 2 ^ 2 ∧ s.doutValid.toNat < 2 ∧ s.overrun.toNat < 2 ∧ s.errSticky.toNat < 2 ∧
      s.lastErr.code < 2 ^ 3 ∧ s.errCause.code < 2 ^ 4 :=
  ⟨s.phase.code_lt, s.doutValid.toNat_lt, s.overrun.toNat_lt, s.errSticky.toNat_lt, s.lastErr.code_lt,
    s.errCause.code_lt⟩

/-- `STATUS` as a number: no field reaches into the next one, so the disjunction of 42_control R106 is a sum. -/
theorem State.toNat_statusWord (s : State) :
    s.statusWord.toNat = s.errCause.code * 2 ^ 12 + s.lastErr.code * 2 ^ 8 + s.errSticky.toNat * 2 ^ 4
      + s.overrun.toNat * 2 ^ 3 + s.doutValid.toNat * 2 ^ 2 + s.phase.code := by
  obtain ⟨phase, valid, overrun, sticky, result, cause⟩ := s.statusFields_lt
  simp only [State.statusWord, BitVec.toNat_or, BitVec.toNat_shiftLeft, BitVec.toNat_ofNat, Nat.or_assoc]
  -- Every field and every shifted field fits 32 bits; then the fields join from the lowest up.
  iterate 11 rw [Nat.mod_eq_of_lt (by omega)]
  rw [← Nat.shiftLeft_add_eq_or_of_lt (i := 2) (by omega), ← Nat.shiftLeft_add_eq_or_of_lt (i := 3) (by omega),
    ← Nat.shiftLeft_add_eq_or_of_lt (i := 4) (by omega), ← Nat.shiftLeft_add_eq_or_of_lt (i := 8) (by omega),
    ← Nat.shiftLeft_add_eq_or_of_lt (i := 12) (by omega)]
  omega

/-- A field of a word, from the word as a number. -/
theorem extractLsb'_eq_ofNat {w : Word} {start len v : Nat} (field : w.toNat / 2 ^ start % 2 ^ len = v) :
    w.extractLsb' start len = BitVec.ofNat len v := by
  refine BitVec.eq_of_toNat_eq ?_
  rw [BitVec.extractLsb'_toNat, BitVec.toNat_ofNat, Nat.shiftRight_eq_div_pow, ← field, Nat.mod_mod]

/-- A flag of a word, from the word as a number. -/
theorem getLsbD_eq_of_toNat {w : Word} {i : Nat} {b : Bool} (bit : w.toNat / 2 ^ i % 2 = b.toNat) : w.getLsbD i = b := by
  rw [BitVec.getLsbD, Nat.testBit_eq_decide_div_mod_eq, bit]
  cases b <;> rfl

/-- Settles O34: each field is the quotient and remainder of the sum at its place, and each code is the stated one. -/
theorem statusShowsEveryField : Obligations.StatusShowsEveryField := by
  refine ⟨decodeKey_read 0x08#8 0#32, fun s => ⟨s.statusWord, rfl, ?phase, ?valid, ?overrun, ?sticky, ?reserved, ?result,
    ?reservedFlag, ?cause, ?reservedUpper⟩⟩
  all_goals
    obtain ⟨phase, valid, overrun, sticky, result, cause⟩ := s.statusFields_lt
    have word := s.toNat_statusWord
  case phase =>
    rw [extractLsb'_eq_ofNat (v := s.phase.code) (by omega)]
    cases s.phase <;> rfl
  case result =>
    rw [extractLsb'_eq_ofNat (v := s.lastErr.code) (by omega)]
    cases s.lastErr <;> rfl
  case cause =>
    rw [extractLsb'_eq_ofNat (v := s.errCause.code) (by omega)]
    cases s.errCause <;> rfl
  case valid | overrun | sticky => exact getLsbD_eq_of_toNat (by omega)
  case reservedFlag => exact getLsbD_eq_of_toNat (b := false) (by rw [Bool.toNat_false]; omega)
  case reserved | reservedUpper => exact extractLsb'_eq_ofNat (by omega)

/-! ## Offsets that no register takes -/

/-- A read of an offset without a register (42_control R112). -/
theorem decodeRead_of_unmapped {off : BitVec 8} (unmapped : off ∉ readOffsets) : decodeRead off = .rdOther off := by
  have ne : ∀ o ∈ readOffsets, off ≠ o := fun _ member same => unmapped (same ▸ member)
  unfold decodeRead
  iterate 17 rw [if_neg (ne _ (by decide))]

/-- A write of an offset without a writable register (42_control R113). -/
theorem decodeWrite_of_unwritable {off : BitVec 8} (d : Word) (unwritable : off ∉ writeOffsets) :
    decodeWrite off d = .other off d := by
  have ne : ∀ o ∈ writeOffsets, off ≠ o := fun _ member same => unwritable (same ▸ member)
  unfold decodeWrite
  iterate 6 rw [if_neg (ne _ (by decide))]

/-- The readable registers lie below `0x48`, and `0x0C` is none of them (10_state R20). -/
theorem not_mem_readOffsets {off : BitVec 8} (reserved : off = 0x0C#8 ∨ 0x48 ≤ off.toNat) : off ∉ readOffsets := by
  have mapped : ∀ o ∈ readOffsets, o ≠ 0x0C#8 ∧ o.toNat < 0x48 := by decide
  intro member
  obtain ⟨notReserved, below⟩ := mapped off member
  exact reserved.elim notReserved below.not_ge

/-- Settles O36: three of the offsets have a row of their own that answers 0, the others have none. -/
theorem unreadableOffsetsReadZero : Obligations.UnreadableOffsetsReadZero := by
  refine fun s => ⟨rfl, rfl, rfl, fun _ => rfl, fun off _ which => ?_⟩
  rw [decodeKey_read]
  have offsets : (off = 0x04#8 ∨ off = 0x1C#8 ∨ off = 0x20#8) ∨ off = 0x0C#8 ∨ 0x48 ≤ off.toNat := by
    simpa [BitVec.toNat_eq, or_assoc] using which
  rcases offsets with (rfl | rfl | rfl) | reserved
  · rfl
  · rfl
  · rfl
  · rw [decodeRead_of_unmapped (not_mem_readOffsets reserved)]
    rfl

/-- Settles O37: none of the offsets is one of the six writable registers, so the write is `OTHER`. -/
theorem unwritableOffsetsIgnoreWrites : Obligations.UnwritableOffsetsIgnoreWrites := by
  refine fun s d => ⟨fun _ => rfl, fun off _ which => ?_⟩
  have writable : ∀ o ∈ writeOffsets,
      ¬(o.toNat ∈ [0x00, 0x08, 0x18, 0x24, 0x28, 0x2C, 0x30, 0x34, 0x38, 0x3C, 0x44, 0x0C] ∨ 0x48 ≤ o.toNat) := by
    decide
  rw [decodeKey_write, decodeWrite_of_unwritable d fun member => writable off member which]
  rfl

end Sys2Proof.Machine

/-! The FFT transactions that the block puts on its port (43_fft_port R116, R117, R122). -/

namespace Sys2Proof.Machine

variable {α : Type}

/-! ## The initialization sequence -/

/-- The transaction on impulse-response block `j`: its request is the block itself (40_setup R84). -/
def initTransaction (D : Datapath α) (ir : Nat → α) (e : Engine α) (j : Nat) : FftTransaction α :=
  ⟨.forward, Nat.log2 (2 * e.b), irBlock D ir e.n e.b j, D.fwd (irBlock D ir e.n e.b j)⟩

/-- The words sent are the block just stored. -/
theorem initBlock_port (D : Datapath α) (ir : Nat → α) (e : Engine α) (j : Nat) :
    (initBlock D ir e j).port = e.port ++ [initTransaction D ir e j] := by
  have stored : D.words .irspec (Memory.writeAll e.irspec (j * e.len) (irBlock D ir e.n e.b j)) (j * e.len) e.len =
      irBlock D ir e.n e.b j := D.words_writeAll .irspec e.irspec _ (irBlock_length D ir e.n e.b j)
  simp only [initBlock, Datapath.transformInPlace, stored]
  rfl

/-- `initBlock` keeps the configuration, so that the later transactions are those of the first engine. -/
theorem initBlocks_port (D : Datapath α) (ir : Nat → α) (js : List Nat) (e : Engine α) :
    (js.foldl (initBlock D ir) e).port = e.port ++ js.map (initTransaction D ir e) := by
  induction js generalizing e with
  | nil => exact (List.append_nil _).symm
  | cons j js ih =>
    have later : initTransaction D ir (initBlock D ir e j) = initTransaction D ir e := rfl
    rw [List.foldl_cons, ih, initBlock_port, later, List.append_assoc, List.map_cons, List.singleton_append]

theorem initSequence_port (D : Datapath α) (ir : Nat → α) (e : Engine α) :
    (initSequence D ir e).port = e.port ++ (List.range e.nb).map (initTransaction D ir e) :=
  initBlocks_port D ir (List.range e.nb) e

/-! ## The block flush -/

/-- The current history block with zeros behind it (41_streaming R93). -/
def paddedBlock (D : Datapath α) (e : Engine α) : List α :=
  D.words .hist e.hist (e.hcur * (2 * e.b)) e.b ++ D.zeros e.b

theorem words_writeAll_zeros_hist (D : Datapath α) (e : Engine α) :
    D.words .hist (Memory.writeAll e.hist (e.hcur * (2 * e.b) + e.b) (D.zeros e.b)) (e.hcur * (2 * e.b)) (2 * e.b) =
      paddedBlock D e := by
  rw [Nat.two_mul, D.words_append, D.words_writeAll _ _ _ (D.zeros_length _), ← Nat.two_mul, paddedBlock]
  congr 1
  exact D.words_congr _ fun k hk => Memory.read?_writeAll_outside _ (.inl (by omega))

theorem flushTransform_port (D : Datapath α) (e : Engine α) :
    (flushTransform D e).port =
      e.port ++ [⟨.forward, Nat.log2 (2 * e.b), paddedBlock D e, D.fwd (paddedBlock D e)⟩] := by
  simp only [flushTransform, Engine.len, Datapath.transformInPlace, words_writeAll_zeros_hist]
  rfl

/-- Saving and accumulating issue no transaction. -/
theorem flushAccumulated_port (D : Datapath α) (e : Engine α) :
    (flushAccumulated D e).port = (flushTransform D e).port := by
  obtain ⟨acc, frame⟩ := flushAccumulated_frame D e
  rw [frame]
  rfl

theorem flushInverse_port (D : Datapath α) (e : Engine α) :
    (flushInverse D e).port =
      e.port ++ [⟨.inverse, Nat.log2 (2 * e.b), D.words .acc e.acc 0 (2 * e.b), D.inv (D.words .acc e.acc 0 (2 * e.b))⟩] :=
  rfl

/-- After the inverse transform no step issues a transaction. -/
theorem blockFlush_port_eq_flushInverse_port (D : Datapath α) (e : Engine α) :
    (blockFlush D e).port = (flushInverse D (flushAccumulated D e)).port := rfl

theorem blockFlush_port (D : Datapath α) (e : Engine α) :
    (blockFlush D e).port = e.port ++
      [⟨.forward, Nat.log2 (2 * e.b), paddedBlock D e, D.fwd (paddedBlock D e)⟩,
        ⟨.inverse, Nat.log2 (2 * e.b), flushSpectrum D e, D.inv (flushSpectrum D e)⟩] := by
  rw [blockFlush_port_eq_flushInverse_port, flushInverse_port, flushAccumulated_port, flushTransform_port,
    flushAccumulated_b, List.append_assoc]
  rfl

/-! ## Host operations -/

/-- An accepted push or command writes the engine, but not its port record. -/
theorem WriteEffect.port {i : Instr} {s t : State} (effect : WriteEffect s i t) : t.port = s.port := by
  cases effect <;> rfl

theorem exec_port {i : Instr} {s t : State} (ran : exec i s = .next t) : t.port = s.port := by
  cases read : IsRead i with
  | true => rcases exec_read_effect i s t read ran with ⟨_, rfl⟩ | ⟨_, _, _, rfl⟩ <;> rfl
  | false => exact (exec_write_effect i s t read ran).port

/-- Settles O31: each engine step appends its transforms' transactions, and no host operation writes the port record. -/
theorem fftTransactionsInOrder : Obligations.FftTransactionsInOrder :=
  ⟨⟨rfl, rfl⟩, fun _ => initSequence_port, fun _ => blockFlush_port, fun _ _ _ => exec_port⟩

end Sys2Proof.Machine

/-! Which operations write the status fields, and what each of them leaves there (60_exceptions R127, R130). -/

namespace Sys2Proof.Machine

/-! ## The keys of the reporting operations -/

theorem isRead_decodeRead (off : BitVec 8) : IsRead (decodeRead off) = true := by
  have registers : ∀ o ∈ readOffsets, IsRead (decodeRead o) = true := by decide
  by_cases mapped : off ∈ readOffsets
  · exact registers off mapped
  · rw [decodeRead_of_unmapped mapped, IsRead]

/-- Every write to `CMD` reports, whatever its opcode. -/
theorem reporting_decodeCmd (d : Word) : Reporting (decodeCmd d) = true := by
  rcases Nat.lt_or_ge (cmdOpc d).toNat 5 with legal | illegal
  · rcases decodeCmd_of_legal legal with ⟨_, decoded⟩ | plain
    · rw [decoded, Reporting]
    · simp only [plainCommands, List.mem_cons, List.not_mem_nil, or_false] at plain
      rcases plain with decoded | decoded | decoded | decoded <;> rw [decoded, Reporting]
  · rw [decodeCmd_of_illegal illegal, Reporting]

theorem reporting_decodeWrite_iff (off : BitVec 8) (d : Word) :
    Reporting (decodeWrite off d) = true ↔ off = 0x04#8 ∨ off = 0x1C#8 ∨ off = 0x20#8 := by
  by_cases writable : off ∈ writeOffsets
  · simp only [writeOffsets, List.mem_cons, List.not_mem_nil, or_false] at writable
    rcases writable with rfl | rfl | rfl | rfl | rfl | rfl
    · exact iff_of_true (reporting_decodeCmd d) (by decide)
    · exact iff_of_false nofun (by decide)
    · exact iff_of_false nofun (by decide)
    · exact iff_of_true rfl (by decide)
    · exact iff_of_true rfl (by decide)
    · exact iff_of_false nofun (by decide)
  · rw [decodeWrite_of_unwritable d writable]
    refine iff_of_false nofun ?_
    rintro (rfl | rfl | rfl) <;> exact writable (by decide)

theorem reporting_decodeKey_iff (w : Bool) (off : BitVec 8) (d : Word) :
    Reporting (decodeKey (mkKey w off d)) = true ↔ w = true ∧ (off = 0x04#8 ∨ off = 0x1C#8 ∨ off = 0x20#8) := by
  cases w with
  | true => rw [decodeKey_write, reporting_decodeWrite_iff, and_iff_right rfl]
  | false =>
    obtain ⟨_, _, noReport⟩ := read_kinds (isRead_decodeRead off)
    rw [decodeKey_read, noReport]
    exact iff_of_false nofun fun h => nomatch h.1

/-! ## What a reporting operation does -/

theorem isRead_of_reporting {i : Instr} (reporting : Reporting i = true) : IsRead i = false := by
  rw [Bool.eq_false_iff]
  intro read
  obtain ⟨_, _, noReport⟩ := read_kinds read
  exact nomatch noReport.symm.trans reporting

/-- A reporting operation is one `fail(c, x)`, or it ends with `ok()` (00_scope R10); before its `ok()` only `CLR_ERR`
touches `ERR_STICKY`. -/
theorem exec_reporting_effect {i : Instr} {s t : State} (reporting : Reporting i = true) (ran : exec i s = .next t) :
    (∃ c x, c ≠ .ok ∧ t = s.written.fail c x) ∨
      ∃ u : State, t = u.succeed ∧ (IsClrErr i = false → u.errSticky = s.errSticky) := by
  cases exec_write_effect i s t (isRead_of_reporting reporting) ran with
  | failed _ c x _ notOk => exact .inl ⟨c, x, notOk, rfl⟩
  | clrErr => exact .inr ⟨_, rfl, nofun⟩
  | nop | init | reset | irBegin | irData | din => exact .inr ⟨_, rfl, fun _ => rfl⟩
  | cfgB | cfgN | dbgSel | ignored => cases reporting

/-- No check of a reporting operation reads `LAST_ERR` or `ERR_CAUSE`, and its answer overwrites both. -/
theorem exec_reporting_ignores_codes {i : Instr} (s : State) (c : Result) (x : Cause) (reporting : Reporting i = true) :
    exec i { s with lastErr := c, errCause := x } = exec i s := by
  cases i <;> cases reporting
  case nop | init | reset | irBegin | clrErr | cmdIllegal | wrIrData | wrDin => rfl

/-! ## What leaves the status fields -/

theorem exec_keeps_status {i : Instr} {s t : State} (noReport : Reporting i = false) (ran : exec i s = .next t) :
    t.lastErr = s.lastErr ∧ t.errCause = s.errCause ∧ t.errSticky = s.errSticky := by
  cases read : IsRead i with
  | true => rcases exec_read_effect i s t read ran with ⟨_, rfl⟩ | ⟨_, _, _, rfl⟩ <;> exact ⟨rfl, rfl, rfl⟩
  | false =>
    cases exec_write_effect i s t read ran with
    | cfgB | cfgN | dbgSel | ignored => exact ⟨rfl, rfl, rfl⟩
    | failed _ _ _ reporting => exact nomatch noReport.symm.trans reporting
    | nop | init | reset | irBegin | clrErr | irData | din => cases noReport

theorem State.engineStep_keeps_status (s : State) :
    s.engineStep.lastErr = s.lastErr ∧ s.engineStep.errCause = s.errCause ∧ s.engineStep.errSticky = s.errSticky := by
  rcases s.engineStep_cases with ⟨_, e⟩ | ⟨_, e⟩ | ⟨_, e⟩ <;> rw [e] <;> exact ⟨rfl, rfl, rfl⟩

/-- A bus error ends in no next state (20_memory R51, R52). -/
theorem hostAccess_ne_next_of_bad {a : Access} (s t : State) (inWindow : a.off < 256)
    (bad : a.width ≠ 32 ∨ a.off % 4 ≠ 0) : hostAccess a s ≠ .next t := by
  by_cases word : a.width = 32
  · have unaligned := bad.resolve_left (not_not.mpr word)
    rw [hostAccess_of_alignment_error s (accessKey_of_unaligned inWindow word unaligned)]
    exact nofun
  · rw [hostAccess_of_width_error s (accessKey_of_width_ne inWindow word)]
    exact nofun

/-- Settles O39: the three offsets of the writes that report, the frames of everything else, and that a reporting
operation answers without looking at the codes that were there. -/
theorem onlyReportingOperationsWriteStatus : Obligations.OnlyReportingOperationsWriteStatus := by
  refine ⟨reporting_decodeKey_iff, fun _ _ _ => exec_keeps_status, fun _ => hostAccess_ne_next_of_bad,
    State.engineStep_keeps_status, fun i s t u c x reporting ran again => ?_⟩
  rw [exec_reporting_ignores_codes s c x reporting, ran] at again
  exact (Host.Outcome.next.inj again).symm

/-- Settles O40: `fail` writes the three fields alone, and `ok()` writes `OK` and `NONE`. -/
theorem failingOperationsChangeOnlyStatus : Obligations.FailingOperationsChangeOnlyStatus := by
  intro i s t reporting ran
  rcases exec_reporting_effect reporting ran with ⟨c, x, notOk, rfl⟩ | ⟨u, rfl, keepsSticky⟩
  · exact ⟨fun _ => State.fail_eq s.written x notOk, fun isOk => absurd isOk notOk⟩
  · rw [State.succeed_eq]
    exact ⟨fun failed => absurd rfl failed, fun _ => ⟨rfl, keepsSticky⟩⟩

end Sys2Proof.Machine

/-! Encoding: the decoder and the encoder are inverse to each other (30_encoding R63 to R69). -/

namespace Sys2Proof.Machine

/-! ## Decoding what was encoded -/

theorem decodeCmd_mkCmd_of_illegal {opc : BitVec 8} (rsv : BitVec 20) (mode : BitVec 4) (illegal : 5 ≤ opc.toNat) :
    decodeCmd (mkCmd opc rsv mode) = .cmdIllegal opc rsv mode := by
  rw [decodeCmd_of_illegal (by rwa [cmdOpc_mkCmd]), cmdOpc_mkCmd, cmdRsv_mkCmd, cmdMode_mkCmd]

theorem wellFormed_cmdIllegal_iff (opc : BitVec 8) (rsv : BitVec 20) (mode : BitVec 4) :
    (Instr.cmdIllegal opc rsv mode).wellFormed = true ↔ 5 ≤ opc.toNat := by
  simp [Instr.wellFormed, legalOpcode]

theorem wellFormed_rdOther_iff (off : BitVec 8) :
    (Instr.rdOther off).wellFormed = true ↔ alignedOffset off = true ∧ off ∉ readOffsets := by
  simp [Instr.wellFormed]

theorem wellFormed_other_iff (off : BitVec 8) (d : Word) :
    (Instr.other off d).wellFormed = true ↔ alignedOffset off = true ∧ off ∉ writeOffsets := by
  simp [Instr.wellFormed]

/-- Settles O1, constructor by constructor: the key has the fields of its operation, and the decoder meets the
operation's own row; the three default rows take what no earlier row takes, which is what being well formed says. -/
theorem decodeInvertsEncode : Obligations.DecodeInvertsEncode := by
  intro i wellFormed
  cases i with
  | nop | init | reset | irBegin | clrErr => rw [encodeKey, decodeKey_cmd]; simp [decodeCmd]
  | cmdIllegal opc rsv mode =>
    rw [encodeKey, decodeKey_cmd]
    exact decodeCmd_mkCmd_of_illegal rsv mode ((wellFormed_cmdIllegal_iff opc rsv mode).mp wellFormed)
  | wrCfgB | wrCfgN | wrIrData | wrDin | wrDbgSel => rw [encodeKey, decodeKey_write]; rfl
  | rdOther off =>
    rw [encodeKey, decodeKey_read, decodeRead_of_unmapped ((wellFormed_rdOther_iff off).mp wellFormed).2]
  | other off d =>
    rw [encodeKey, decodeKey_write, decodeWrite_of_unwritable d ((wellFormed_other_iff off d).mp wellFormed).2]
  | _ => rw [encodeKey, decodeKey_read]; rfl

/-! ## Encoding what was decoded -/

/-- A command word gives its own key back. -/
theorem encodeKey_decodeCmd (d : Word) :
    (decodeCmd d).wellFormed = true ∧ encodeKey (decodeCmd d) = mkKey true 0x04#8 d := by
  rcases Nat.lt_or_ge (cmdOpc d).toNat 5 with legal | illegal
  · have opcodes : ∀ opc : BitVec 8, opc.toNat < 5 → opc ∈ [0x00#8, 0x01#8, 0x02#8, 0x03#8, 0x04#8] := by decide
    have opcode := opcodes _ legal
    have fields := mkCmd_fields d
    simp only [List.mem_cons, List.not_mem_nil, or_false] at opcode
    rcases opcode with h | h | h | h | h <;> rw [h] at fields <;>
      simp [decodeCmd, h, encodeKey, fields, Instr.wellFormed]
  · rw [decodeCmd_of_illegal illegal, encodeKey, mkCmd_fields]
    exact ⟨(wellFormed_cmdIllegal_iff _ _ _).mpr illegal, rfl⟩

theorem encodeKey_decodeWrite {off : BitVec 8} (d : Word) (aligned : alignedOffset off = true) :
    (decodeWrite off d).wellFormed = true ∧ encodeKey (decodeWrite off d) = mkKey true off d := by
  by_cases writable : off ∈ writeOffsets
  · simp only [writeOffsets, List.mem_cons, List.not_mem_nil, or_false] at writable
    rcases writable with rfl | rfl | rfl | rfl | rfl | rfl
    · exact encodeKey_decodeCmd d
    all_goals exact ⟨rfl, rfl⟩
  · rw [decodeWrite_of_unwritable d writable]
    exact ⟨(wellFormed_other_iff off d).mpr ⟨aligned, writable⟩, rfl⟩

theorem encodeKey_decodeRead {off : BitVec 8} (aligned : alignedOffset off = true) :
    (decodeRead off).wellFormed = true ∧ encodeKey (decodeRead off) = mkKey false off 0#32 := by
  have registers : ∀ o ∈ readOffsets,
      (decodeRead o).wellFormed = true ∧ encodeKey (decodeRead o) = mkKey false o 0#32 := by decide
  by_cases mapped : off ∈ readOffsets
  · exact registers off mapped
  · rw [decodeRead_of_unmapped mapped]
    exact ⟨(wellFormed_rdOther_iff off).mpr ⟨aligned, mapped⟩, rfl⟩

/-- The alignment check of the port is that of the well-formed operations (20_memory R52). -/
theorem alignedOffset_ofNat {off : Nat} (inWindow : off < 256) (aligned : off % 4 = 0) :
    alignedOffset (BitVec.ofNat 8 off) = true := by
  have offsets : ∀ o : BitVec 8, o.toNat % 4 = 0 → alignedOffset o = true := by decide
  exact offsets _ (by rwa [BitVec.toNat_ofNat, Nat.mod_eq_of_lt inWindow])

/-- Settles O3: the key of an access has an aligned offset, and the data of a read are 0. -/
theorem presentedKeysRoundTrip : Obligations.PresentedKeysRoundTrip := by
  intro a k key
  obtain ⟨inWindow, _, aligned, rfl⟩ := accessKey_ok a k key
  have aligned := alignedOffset_ofNat inWindow aligned
  cases a.write with
  | true => rw [if_pos rfl, decodeKey_write]; exact encodeKey_decodeWrite a.data aligned
  | false => rw [if_neg Bool.false_ne_true, decodeKey_read]; exact encodeKey_decodeRead aligned

/-- Settles O4, key by key. -/
theorem sampleKeysDecodeAsTheSpecSays : Obligations.SampleKeysDecodeAsTheSpecSays :=
  ⟨by decide, by decide, by decide, by decide, by decide⟩

end Sys2Proof.Machine

/-! One step of the machine: whose turn it is, the host's events, and who moves next (20_memory R48, R49, R57). -/

namespace Sys2Proof.Machine

/-! ## Steps by whose turn it is -/

theorem step_engine {s : State} (busy : s.busy = true) (engineTurn : s.turn = .engine) :
    step s = .next s.engineStep.drawTurn := by
  rw [step, machineStep, if_pos ⟨busy, engineTurn⟩]

theorem step_host {s : State} (hostTurn : ¬(s.busy = true ∧ s.turn = .engine)) :
    step s = thenDrawTurn (hostStep s) := by
  rw [step, machineStep, if_neg hostTurn]

theorem hostAccess_of_decoded {a : Access} {i : Instr} (s : State) (decoded : decodeAccess a = .ok i) :
    hostAccess a s = exec i s := by
  rw [hostAccess, decoded]

/-- Settles O5: on the host's turn the step is the access, and its key names the operation. -/
theorem stepRunsTheDecodedOperation : Obligations.StepRunsTheDecodedOperation := by
  intro s a rest i next hostTurn decoded
  rw [step_access next hostTurn, hostAccess_of_decoded _ decoded]
  rfl

/-- What a busy engine computes in its step (40_setup R84, 41_streaming R92). -/
theorem State.engineStep_busy {s : State} (busy : s.busy = true) :
    s.engineStep = { s with
      toEngine := if s.phase = .initBusy then initSequence (blockDatapath s.resets) s.irSample s.toEngine
        else blockFlush (blockDatapath s.resets) s.toEngine
      phase := .ready } := by
  rcases s.busy_iff.mp busy with phase | phase <;> simp [State.engineStep, phase]

/-- Settles O6: a busy engine's step is its sequence, and an idle host step is nothing but the draw. -/
theorem engineStepEndsTheBusyState : Obligations.EngineStepEndsTheBusyState := by
  refine ⟨fun s busy engineTurn => ⟨_, ?_, rfl⟩, fun s hostTurn idle => ?_,
    fun s => ⟨s.drawTurn_idle, fun busy => ⟨_, s.drawTurn_busy busy⟩⟩⟩
  · rw [step_engine busy engineTurn, State.engineStep_busy busy]
  · rw [step_host hostTurn, hostStep, idle, thenDrawTurn]

/-! ## The host port -/

theorem State.present_inside (s : State) (width : Nat) (write : Bool) (d : Word) {off : Nat} (inWindow : off < 256) :
    (s.present (Config.base + off) width write d).pending = s.pending ++ [.access ⟨off, width, write, d⟩] := by
  rw [State.present, if_pos (by omega), Nat.add_sub_cancel_left]

theorem State.present_outside (s : State) {addr : Nat} (width : Nat) (write : Bool) (d : Word)
    (outside : addr < Config.base ∨ Config.base + 256 ≤ addr) : s.present addr width write d = s := by
  rw [State.present, if_neg (by omega)]

theorem hostAccess_of_outside {a : Access} (s : State) (outside : 256 ≤ a.off) : hostAccess a s = .next s := by
  rw [hostAccess, decodeAccess, accessKey, if_pos outside]

theorem laneByte_getLsbD (w : Word) (i : Nat) {j : Nat} (hj : j < 8) :
    (laneByte w i).getLsbD j = w.getLsbD (8 * i + j) := by
  rw [laneByte, BitVec.getLsbD_extractLsb', decide_eq_true hj, Bool.true_and]

/-- The four lanes, highest first, are adjacent slices of the word (20_memory R50). -/
theorem ofLanes_laneBytes (w : Word) : ofLanes (laneByte w 0) (laneByte w 1) (laneByte w 2) (laneByte w 3) = w := by
  have upper : laneByte w 3 ++ laneByte w 2 = w.extractLsb' 16 16 :=
    BitVec.extractLsb'_append_extractLsb'_eq_extractLsb' rfl
  have upper3 : w.extractLsb' 16 16 ++ laneByte w 1 = w.extractLsb' 8 24 :=
    BitVec.extractLsb'_append_extractLsb'_eq_extractLsb' rfl
  rw [ofLanes, upper, upper3]
  exact BitVec.extractLsb'_append_extractLsb' (w := 24) (len := 8)

theorem base_aligned : Config.base % 256 = 0 := by
  unfold Config.base
  exact Nat.mul_mod_left ..

/-- Settles O8: the window is `present`'s own test, an access outside it has no key, and the lanes are slices. -/
theorem hostPortWindowAndLanes : Obligations.HostPortWindowAndLanes := by
  refine ⟨fun s addr width write d => ⟨?_, s.present_outside width write d⟩, base_aligned,
    fun s a rest next hostTurn outside => ?_, fun w => ⟨ofLanes_laneBytes w, fun i j _ => laneByte_getLsbD w i⟩⟩
  · intro off inWindow address
    rw [address, s.present_inside width write d inWindow]
  · rw [step_access next hostTurn, hostAccess_of_outside _ outside, thenDrawTurn]

/-- A hardware reset as a step: the block is idle after it, so the host moves next. -/
theorem step_hardwareReset {s : State} {rest : List HostEvent} (next : s.pending = .hardwareReset :: rest)
    (hostTurn : ¬(s.busy = true ∧ s.turn = .engine)) :
    step s = .next { State.hardwareReset { s with pending := rest } with turn := .host } := by
  have idle : (State.hardwareReset { s with pending := rest }).busy = false := rfl
  rw [step_host hostTurn, hostStep, next, ← State.drawTurn_idle _ idle]
  rfl

/-- Settles O9: the reset state is the reset values of 10_state R46. -/
theorem hardwareResetSetsEveryRegister : Obligations.HardwareResetSetsEveryRegister := by
  intro s rest next hostTurn
  refine ⟨_, step_hardwareReset next hostTurn, rfl, State.statusWord_afterReset rest s.draws (s.resets + 1), ?_⟩
  exact ⟨rfl, rfl, rfl, rfl, rfl, rfl, rfl, rfl, rfl, rfl, rfl, rfl, rfl, rfl, rfl, rfl⟩

/-! ## The requested configuration -/

/-- Settles O44: in each `STATE` the engine step is a function of the engine, the staged samples and the resets. -/
theorem engineIgnoresTheRequestedConfiguration : Obligations.EngineIgnoresTheRequestedConfiguration := by
  intro s x y z
  cases phase : s.phase with
  | initBusy => simp only [State.engineStep, phase]; rfl
  | _ => simp only [State.engineStep, phase]

end Sys2Proof.Machine

/-! What the host operations do to `STATE` and to the spectra, and what they are answered while the engine is busy
(10_state R37, R42, 42_control R114). -/

namespace Sys2Proof.Machine

/-- Settles O16: past its decode check each of the five operations begins with the busy check. -/
theorem busyEngineRejectsFiveOperations : Obligations.BusyEngineRejectsFiveOperations := by
  intro i s busy rejected
  cases i <;> simp only [RejectedWhileBusy, Bool.false_eq_true] at rejected
  case init rsv mode =>
    obtain rfl := (initBitsClear_iff rsv).mp rejected
    rw [exec_init, State.written_checkBusy_of_busy _ busy]
  case reset rsv mode =>
    obtain ⟨rfl, rfl⟩ := (plainCommandBitsClear_iff rsv mode).mp rejected
    rw [exec_reset, State.written_checkBusy_of_busy _ busy]
  case irBegin rsv mode =>
    obtain ⟨rfl, rfl⟩ := (plainCommandBitsClear_iff rsv mode).mp rejected
    rw [exec_irBegin, State.written_checkBusy_of_busy _ busy]
  case wrIrData d => rw [exec_wrIrData, State.written_checkBusy_of_busy _ busy]
  case wrDin x => rw [exec_wrDin, State.written_checkBusy_of_busy _ busy]

/-- Settles O38: `RD_DOUT` is the one read with an effect. -/
theorem readsHaveNoSideEffect : Obligations.ReadsHaveNoSideEffect := by
  intro i s t read notDout ran
  rcases exec_read_effect i s t read ran with ⟨isDout, _⟩ | ⟨_, w, d, rfl⟩
  · exact absurd isDout notDout
  · exact ⟨w, d, rfl⟩

/-! ## `STATE` -/

theorem State.idle_iff (s : State) : s.busy = false ↔ s.phase = .uninit ∨ s.phase = .ready := by
  cases phase : s.phase <;> simp [State.busy, phase]

/-- The operations that change `STATE` (10_state R42): an accepted `INIT`, an accepted `RESET`, and a push that fills
the block. -/
theorem exec_phase {i : Instr} {s t : State} (ran : exec i s = .next t) (changed : t.phase ≠ s.phase) :
    t.lastErr = .ok ∧
      ((∃ mode, i = .init 0#20 mode ∧ s.busy = false ∧ t.phase = .initBusy) ∨
        (i = .reset 0#20 0#4 ∧ s.busy = false ∧ t.phase = .uninit) ∨
        ∃ x, i = .wrDin x ∧ s.phase = .ready ∧ t.phase = .blockBusy ∧ t.iib = t.b) := by
  cases read : IsRead i with
  | true => rcases exec_read_effect i s t read ran with ⟨_, rfl⟩ | ⟨_, _, _, rfl⟩ <;> exact absurd rfl changed
  | false =>
    cases exec_write_effect i s t read ran with
    | init mode idle _ => exact ⟨rfl, .inl ⟨mode, rfl, idle, rfl⟩⟩
    | reset idle => exact ⟨rfl, .inr (.inl ⟨rfl, idle, rfl⟩)⟩
    | din x ready =>
      rw [State.succeed_phase, State.acceptPush_phase] at changed
      have full := (ite_ne_right_iff.mp changed).1
      exact ⟨rfl, .inr (.inr ⟨x, rfl, ready, if_pos full, full⟩)⟩
    | failed | nop | irBegin | clrErr | irData | cfgB | cfgN | dbgSel | ignored => exact absurd rfl changed

theorem State.engineStep_phase {s : State} (busy : s.busy = true) : s.engineStep.phase = .ready := by
  rw [State.engineStep_busy busy]

/-- Settles O42: a step is an engine step, a reset or one operation, and of the operations three change `STATE`. -/
theorem stateChangesOnlyByTheTable : Obligations.StateChangesOnlyByTheTable := by
  intro s t ran changed
  rcases step_cases s t ran with ⟨busy, engineTurn, rfl⟩ | ⟨_, rfl⟩ | ⟨rest, next, rfl⟩ |
    ⟨a, rest, k, u, next, key, done, rfl⟩ | ⟨a, rest, _, _, rfl⟩
  · exact .inr (.inl ⟨busy, engineTurn, by rw [State.drawTurn_phase, State.engineStep_phase busy]⟩)
  · exact absurd (State.drawTurn_phase s) changed
  · exact .inl ⟨rest, next, State.drawTurn_phase _⟩
  · rw [State.drawTurn_phase] at changed
    obtain ⟨accepted, effect⟩ := exec_phase done changed
    refine .inr (.inr ⟨a, rest, k, next, key, by rwa [State.drawTurn_lastErr], ?_⟩)
    simp only [State.drawTurn_phase, State.drawTurn_toEngine]
    rcases effect with ⟨mode, decoded, idle, phase⟩ | ⟨decoded, idle, phase⟩ | push
    · exact .inl ⟨mode, decoded, s.idle_iff.mp idle, phase⟩
    · refine .inr (.inl ⟨decoded, (s.idle_iff.mp idle).resolve_left fun uninit => ?_, phase⟩)
      exact changed (phase.trans uninit.symm)
    · exact .inr (.inr push)
  · exact absurd (State.drawTurn_phase _) changed

/-! ## The spectra -/

/-- Settles O43: of the operations only `RESET` writes `IRSPEC`, and a flush does not. -/
theorem spectraOutliveEveryOtherOperation : Obligations.SpectraOutliveEveryOtherOperation := by
  refine ⟨fun i s t ran => ?_, fun s notInit => ?_⟩
  · cases read : IsRead i with
    | true => rcases exec_read_effect i s t read ran with ⟨_, rfl⟩ | ⟨_, _, _, rfl⟩ <;> exact .inl rfl
    | false =>
      cases exec_write_effect i s t read ran with
      | reset => exact .inr ⟨rfl, rfl, rfl⟩
      | _ => exact .inl rfl
  · rcases s.engineStep_cases with ⟨init, _⟩ | ⟨_, flushed⟩ | ⟨_, same⟩
    · exact absurd init notInit
    · rw [flushed]
      obtain ⟨_, _, _, irspec, _⟩ := blockFlush_frame (blockDatapath s.resets) s.toEngine
      exact irspec
    · rw [same]

/-! ## `INIT` -/

/-- A configuration within the capacities passes `INIT_CHECK` (40_setup R80). -/
theorem initCheck_of_admissible {caps : Caps} {cfgB cfgN irCount : Word} {b n : Nat} (hb : cfgB.toInt = b)
    (hn : cfgN.toInt = n) (staged : irCount.toNat = n) (pow2 : IsPow2 b) (bMax : b ≤ caps.bMax) (pos : 1 ≤ n)
    (nMax : n ≤ caps.nMax) (fits : ((n - 1) / b + 1) * 2 * b ≤ caps.specWords) :
    initCheck caps 1#4 cfgB cfgN irCount = (.ok, .none) := by
  have positive : 0 < b := by obtain ⟨k, rfl⟩ := pow2; positivity
  have answer := (initCheckReportsTheFirstFailure caps 1#4 cfgB cfgN irCount).2.2.2.2.2.2.2.2.2
  refine answer.mpr ⟨⟨⟨rfl, ?_, ?_, ?_⟩, ?_, ?_⟩, ?_, ?_⟩ <;> simp only [hb, hn, staged, Int.toNat_natCast]
  · omega
  · exact pow2
  · omega
  · omega
  · omega
  · exact fits

/-- `INIT` of an idle block whose checks pass (40_setup R79, R81). -/
theorem exec_init_of_check {s : State} {mode : BitVec 4} (idle : s.busy = false)
    (check : initCheck Config.caps mode s.cfgB s.cfgN s.irWptr = (.ok, .none)) :
    exec (.init 0#20 mode) s = .next s.written.acceptInit.succeed := by
  rw [exec_init, State.checkBusy_idle s.written _ idle]
  rcases State.tryInit_cases s.written mode with ⟨_, answer⟩ | ⟨c, x, rejected, notOk, _⟩
  · rw [answer]
  · exact absurd (congrArg Prod.fst (rejected.symm.trans check)) notOk

/-- Settles O20: the checks pass, and the acceptance latches the configuration. -/
theorem initLatchesAnAdmissibleConfiguration : Obligations.InitLatchesAnAdmissibleConfiguration := by
  intro s b n idle hb hn staged pow2 bMax pos nMax fits
  rw [exec_init_of_check idle (initCheck_of_admissible hb hn staged pow2 bMax pos nMax fits), State.succeed_eq,
    State.acceptInit]
  simp only [State.written_cfgB, State.written_cfgN, int32, hb, hn, Int.toNat_natCast]
  rfl

end Sys2Proof.Machine

/-! The open parameters: what 00_scope R6 and 43_fft_port R118, R119 say of them. -/

namespace Sys2Proof.Machine

/-! ## Capacities -/

theorem bMax_le : Config.bMax ≤ 2 ^ 31 :=
  Nat.pow_le_pow_right (by decide) (by have := Nat.mod_lt Config.log2BMaxRaw (show 0 < 32 by decide); omega)

theorem one_le_bMax : 1 ≤ Config.bMax := Nat.one_le_two_pow

theorem one_le_nMax : 1 ≤ Config.nMax := Nat.le_add_left ..

/-- The joint constraint of 00_scope R6: `TAIL_LEN` is never its sentinel. -/
theorem nMax_add_bMax_lt : Config.nMax + Config.bMax - 1 < 2 ^ 32 - 1 := by
  have atMost := bMax_le
  have below := Nat.mod_lt Config.nMaxRaw (show 0 < 2 ^ 32 - 1 - Config.bMax by omega)
  unfold Config.nMax
  omega

/-! ## `NAN_RESULT` -/

theorem fpExp_eq_extractLsb' (w : Word) : fpExp w = (w.extractLsb' 23 8).toNat := by
  rw [BitVec.extractLsb'_toNat, Nat.shiftRight_eq_div_pow, fpExp]

theorem fpFrac_eq_extractLsb' (w : Word) : fpFrac w = (w.extractLsb' 0 23).toNat := by
  rw [BitVec.extractLsb'_toNat, Nat.shiftRight_zero, fpFrac]

theorem fpExp_nanResult : fpExp Config.nanResult = 255 := by
  have ones : (0x7FC00000#32).extractLsb' 23 8 = BitVec.allOnes 8 := by decide
  rw [fpExp_eq_extractLsb', Config.nanResult, BitVec.extractLsb'_or, ones, BitVec.or_allOnes]
  rfl

/-- The top fraction bit makes the NaN a quiet one (00_scope R12). -/
theorem le_fpFrac_nanResult : 2 ^ 22 ≤ fpFrac Config.nanResult := by
  rw [fpFrac_eq_extractLsb', Config.nanResult, BitVec.extractLsb'_or, BitVec.toNat_or]
  exact Nat.right_le_or

theorem fpIsNaN_nanResult : fpIsNaN Config.nanResult = true := by
  have quiet := le_fpFrac_nanResult
  rw [fpIsNaN, fpExp_nanResult, Bool.and_eq_true, bne_iff_ne]
  exact ⟨rfl, by omega⟩

/-! ## The FFT functions -/

/-- The zeros of P3 are the zeros of binary32. -/
theorem isZeroWord_eq_fpIsZero (w : Word) : Config.isZeroWord w = fpIsZero w := by
  have low : (w &&& 0x7FFFFFFF#32).toNat = w.toNat % 2 ^ 31 := by
    rw [BitVec.toNat_and]
    exact Nat.and_two_pow_sub_one_eq_mod w.toNat 31
  rw [Bool.eq_iff_iff, Config.isZeroWord, beq_iff_eq, BitVec.toNat_eq, low, fpIsZero, Bool.and_eq_true, beq_iff_eq,
    beq_iff_eq, fpExp, fpFrac, BitVec.toNat_ofNat]
  omega

theorem zerosToZeros_meetsP3 (f : List Word → Nat → Word) : ZerosToZeros (Config.meetsP3 f) := by
  intro v zeros w mem
  have image := Config.meetsP3_zero f v (List.all_eq_true.mpr fun w mem => by
    rw [isZeroWord_eq_fpIsZero]; exact zeros w mem)
  rw [← isZeroWord_eq_fpIsZero]
  exact List.all_eq_true.mp image w mem

/-- Settles O22, parameter by parameter. -/
theorem parametersMeetTheirConstraints : Obligations.ParametersMeetTheirConstraints :=
  ⟨⟨_, rfl⟩, one_le_bMax, one_le_nMax, Nat.le_add_left .., nMax_add_bMax_lt, fpIsNaN_nanResult, le_fpFrac_nanResult,
    zerosToZeros_meetsP3 _, zerosToZeros_meetsP3 _, fun v => ⟨Config.fwd_length v, Config.inv_length v⟩⟩

/-- The block's FFT functions keep the length (43_fft_port R118). -/
theorem blockDatapath_keepsLength (resets l : Nat) :
    KeepsLength l (blockDatapath resets).fwd ∧ KeepsLength l (blockDatapath resets).inv :=
  ⟨fun v length => (Config.fwd_length v).trans length, fun v length => (Config.inv_length v).trans length⟩

end Sys2Proof.Machine

/-! What the initialization sequence leaves (40_setup R84, R85), and the ring of history slots (10_state R36). -/

namespace Sys2Proof.Machine

variable {α : Type}

theorem read?_writeAll_zeros (D : Datapath α) (m : Memory α) {len i : Nat} (hi : i < len) :
    Memory.read? (Memory.writeAll m 0 (D.zeros len)) i = some D.zero := by
  rw [← Nat.zero_add i, Memory.read?_writeAll_of_lt _ _ _ _ (by simpa using hi)]
  simp [Datapath.zeros, hi]

/-- Settles O27: the three memories are blocks of zeros, and each slot of `IRSPEC` the response to its block. -/
theorem initSequenceClearsAndTransforms : Obligations.InitSequenceClearsAndTransforms := by
  intro α D ir e fwdLength f
  obtain ⟨b, n, nb, iib, hcur⟩ := initSequence_config D ir e
  obtain ⟨irspec, port, shape⟩ := initSequence_shape D ir e
  refine ⟨b, n, nb, iib, hcur, fun i hi => ?_, fun i hi => ?_, fun i hi => ?_,
    fun j hj => words_initSequence_irspec D ir e fwdLength hj⟩
  all_goals
    rw [show f = _ from shape]
    exact read?_writeAll_zeros D _ hi

/-- Settles O29: the slot is `HCUR - j` reduced, and adding `j` gives `HCUR` back. -/
theorem pastSlotIsJRoundsBack : Obligations.PastSlotIsJRoundsBack := by
  intro hcur nb j inRing
  have slot : (pastSlot hcur nb j : ℤ) = ((hcur : ℤ) - j) % nb :=
    ringSlot_cast (Nat.one_le_of_lt inRing) ((hcur : ℤ) - j)
  refine ⟨ringSlot_lt (Nat.one_le_of_lt inRing) _, Int.natCast_inj.mp ?_⟩
  push_cast
  rw [slot, Int.emod_add_emod, sub_add_cancel, Int.emod_eq_of_lt (by omega) (by omega)]

end Sys2Proof.Machine

/-! What the engine's operations keep of its memories: they write within the words in use and unwrite nothing
(20_memory R55, 70_reset R141). -/

namespace Sys2Proof.Machine

variable {α : Type}

/-! ## Memories that grow -/

/-- `m'` is `m` after writes below an extent: still canonical, within every capacity above the extent, and every word
written before is written. -/
structure Memory.Grows (extent : Nat) (m m' : Memory α) : Prop where
  wf : Memory.wf m → Memory.wf m'
  below : ∀ cap, extent ≤ cap → Memory.Below m cap → Memory.Below m' cap
  written : ∀ len, Memory.WrittenTo m len → Memory.WrittenTo m' len

theorem Memory.Grows.refl (extent : Nat) (m : Memory α) : Memory.Grows extent m m := ⟨id, fun _ _ => id, fun _ => id⟩

theorem Memory.Grows.trans {extent : Nat} {m m' m'' : Memory α} (first : Memory.Grows extent m m')
    (second : Memory.Grows extent m' m'') : Memory.Grows extent m m'' :=
  ⟨second.wf ∘ first.wf, fun cap within => second.below cap within ∘ first.below cap within,
    fun len => second.written len ∘ first.written len⟩

theorem Memory.grows_writeAll {extent base : Nat} (m : Memory α) {vs : List α} (within : base + vs.length ≤ extent) :
    Memory.Grows extent m (Memory.writeAll m base vs) :=
  ⟨Memory.wf_writeAll m base vs, fun _ fits below => Memory.below_writeAll m base _ vs below (within.trans fits),
    fun len => Memory.writtenTo_writeAll m base len vs⟩

theorem Memory.grows_write {extent i : Nat} (m : Memory α) (v : α) (within : i < extent) :
    Memory.Grows extent m (Memory.write m i v) :=
  ⟨Memory.wf_write m i v, fun cap fits below => Memory.below_write m i cap v below (within.trans_le fits),
    fun len => Memory.writtenTo_write m i len v⟩

/-- Writing on where the written words end. -/
theorem Memory.writtenTo_append {m : Memory α} {len : Nat} (vs : List α) (written : Memory.WrittenTo m len) :
    Memory.WrittenTo (Memory.writeAll m len vs) (len + vs.length) := by
  intro i hi
  by_cases old : i < len
  · exact Memory.writtenTo_writeAll m len len vs written i old
  · rw [Memory.read?_writeAll, if_pos ⟨by omega, hi⟩, List.getElem?_eq_getElem (by omega)]
    rfl

/-- A transform in place writes within its slot. -/
theorem Memory.grows_transformInPlace (D : Datapath α) (dir : FftDir) (sel : MemSel) (m : Memory α)
    {extent base len : Nat} (keeps : KeepsLength len (D.fftResponse dir)) (within : base + len ≤ extent) :
    Memory.Grows extent m (D.transformInPlace dir sel m base len).1 :=
  Memory.grows_writeAll m (by rwa [keeps _ (D.words_length ..)])

/-! ## Engines that grow -/

/-- `e'` is `e` after operations that keep the active configuration and write within the words in use. -/
structure Engine.Grows (e e' : Engine α) : Prop where
  b : e'.b = e.b
  n : e'.n = e.n
  nb : e'.nb = e.nb
  irspec : Memory.Grows (e.nb * e.len) e.irspec e'.irspec
  hist : Memory.Grows (e.nb * e.len) e.hist e'.hist
  acc : Memory.Grows e.len e.acc e'.acc
  saved : Memory.Grows e.b e.saved e'.saved

theorem Engine.Grows.len {e e' : Engine α} (grows : e.Grows e') : e'.len = e.len := congrArg (2 * ·) grows.b

theorem Engine.Grows.refl (e : Engine α) : e.Grows e :=
  ⟨rfl, rfl, rfl, .refl _ _, .refl _ _, .refl _ _, .refl _ _⟩

theorem Engine.Grows.trans {e e' e'' : Engine α} (first : e.Grows e') (second : e'.Grows e'') : e.Grows e'' := by
  obtain ⟨b, n, nb, irspec, hist, acc, saved⟩ := second
  rw [first.nb, first.len] at irspec hist
  rw [first.len] at acc
  rw [first.b] at saved
  exact ⟨b.trans first.b, n.trans first.n, nb.trans first.nb, first.irspec.trans irspec, first.hist.trans hist,
    first.acc.trans acc, first.saved.trans saved⟩

theorem Engine.Grows.written {e e' : Engine α} (grows : e.Grows e') (written : e.Written) : e'.Written := by
  obtain ⟨irspec, hist, acc, saved⟩ := written
  rw [Engine.Written, grows.nb, grows.len, grows.b]
  exact ⟨grows.irspec.written _ irspec, grows.hist.written _ hist, grows.acc.written _ acc,
    grows.saved.written _ saved⟩

/-- A slot of the ring ends within the words in use. -/
theorem slot_within {s nb : Nat} (len : Nat) (inRing : s < nb) : s * len + len ≤ nb * len := by
  rw [← Nat.succ_mul]
  exact Nat.mul_le_mul_right len inRing

theorem pushStore_grows {e : Engine α} (x : α) (slot : e.hcur < e.nb) (inBlock : e.iib < e.b) :
    e.Grows (pushStore e x) := by
  have within := slot_within e.len slot
  have len : e.len = 2 * e.b := rfl
  exact ⟨rfl, rfl, rfl, .refl _ _, Memory.grows_write e.hist x (by omega), .refl _ _, .refl _ _⟩

/-! ## The initialization sequence -/

/-- After the transform of block `j` the words of its slot are written. -/
theorem initBlock_written (D : Datapath α) (ir : Nat → α) {e : Engine α} {j : Nat}
    (written : Memory.WrittenTo e.irspec (j * e.len)) :
    Memory.WrittenTo (initBlock D ir e j).irspec ((j + 1) * e.len) := by
  have stored := Memory.writtenTo_append (irBlock D ir e.n e.b j) written
  rw [irBlock_length] at stored
  rw [Nat.succ_mul]
  exact Memory.writtenTo_writeAll _ _ _ _ stored

section
variable (D : Datapath α) (ir : Nat → α) {e : Engine α} (fwdLength : KeepsLength e.len D.fwd)
include fwdLength

theorem initBlock_grows {j : Nat} (slot : j < e.nb) : e.Grows (initBlock D ir e j) := by
  have within := slot_within e.len slot
  refine ⟨rfl, rfl, rfl, ?_, .refl _ _, .refl _ _, .refl _ _⟩
  refine .trans (Memory.grows_writeAll e.irspec ?_) (Memory.grows_transformInPlace D .forward _ _ fwdLength within)
  rwa [irBlock_length]

theorem initBlocks_grow {r : Nat} (blocks : r ≤ e.nb) :
    e.Grows ((List.range r).foldl (initBlock D ir) e) ∧
      Memory.WrittenTo ((List.range r).foldl (initBlock D ir) e).irspec (r * e.len) := by
  induction r with
  | zero => exact ⟨.refl e, fun i hi => by simp at hi⟩
  | succ r ih =>
    obtain ⟨grows, written⟩ := ih (by omega)
    rw [List.range_succ, List.foldl_append, List.foldl_cons, List.foldl_nil, ← grows.len]
    rw [← grows.len] at written fwdLength
    exact ⟨grows.trans (initBlock_grows D ir fwdLength (by rw [grows.nb]; omega)),
      initBlock_written D ir written⟩

/-- The initialization sequence writes every word in use, and no other (40_setup R84, R85). -/
theorem initSequence_grows : e.Grows (initSequence D ir e) ∧ (initSequence D ir e).Written := by
  obtain ⟨grows, written⟩ := initBlocks_grow D ir fwdLength le_rfl
  obtain ⟨b, n, nb, _, _⟩ := initSequence_config D ir e
  have len : (initSequence D ir e).len = e.len := congrArg (2 * ·) b
  obtain ⟨hist, acc, saved⟩ : (initSequence D ir e).hist = Memory.writeAll e.hist 0 (D.zeros (e.nb * e.len)) ∧
      (initSequence D ir e).acc = Memory.writeAll e.acc 0 (D.zeros e.len) ∧
      (initSequence D ir e).saved = Memory.writeAll e.saved 0 (D.zeros e.b) := by
    obtain ⟨irspec, port, shape⟩ := initSequence_shape D ir e
    rw [shape]
    exact ⟨rfl, rfl, rfl⟩
  constructor
  · refine ⟨b, n, nb, grows.irspec, ?_, ?_, ?_⟩
    · rw [hist]; exact Memory.grows_writeAll _ (by simp)
    · rw [acc]; exact Memory.grows_writeAll _ (by simp)
    · rw [saved]; exact Memory.grows_writeAll _ (by simp)
  · rw [Engine.Written, nb, len, b, hist, acc, saved]
    refine ⟨written, ?_, ?_, ?_⟩
    · simpa using Memory.writtenTo_of_writeAll e.hist (D.zeros (e.nb * e.len))
    · simpa using Memory.writtenTo_of_writeAll e.acc (D.zeros e.len)
    · simpa using Memory.writtenTo_of_writeAll e.saved (D.zeros e.b)

end

/-! ## The block flush -/

section
variable (D : Datapath α) (e : Engine α)

theorem flushTransform_grows (fwdLength : KeepsLength e.len D.fwd) (slot : e.hcur < e.nb) :
    e.Grows (flushTransform D e) := by
  have within := slot_within e.len slot
  have len : e.len = 2 * e.b := rfl
  refine ⟨rfl, rfl, rfl, .refl _ _, ?_, .refl _ _, .refl _ _⟩
  refine .trans (Memory.grows_writeAll e.hist ?_) (Memory.grows_transformInPlace D .forward _ _ fwdLength within)
  rw [D.zeros_length]
  omega

theorem flushSave_grows : e.Grows (flushSave D e) :=
  ⟨rfl, rfl, rfl, .refl _ _, .refl _ _, Memory.grows_writeAll _ (by simp), Memory.grows_writeAll _ (by simp)⟩

theorem pmac_grows (j s : Nat) : e.Grows (pmac D e j s) :=
  ⟨rfl, rfl, rfl, .refl _ _, .refl _ _, Memory.grows_writeAll _ (by simp), .refl _ _⟩

theorem flushAccumulate_grows : e.Grows (flushAccumulate D e) :=
  List.foldlRecOn (motive := e.Grows) _ _ (.refl e) fun f grows j _ => grows.trans (pmac_grows D f j _)

theorem flushInverse_grows (invLength : KeepsLength e.len D.inv) : e.Grows (flushInverse D e) :=
  ⟨rfl, rfl, rfl, .refl _ _, .refl _ _, Memory.grows_transformInPlace D .inverse _ _ invLength (Nat.zero_add _).le,
    .refl _ _⟩

theorem flushOverlap_grows : e.Grows (flushOverlap D e) :=
  ⟨rfl, rfl, rfl, .refl _ _, .refl _ _, Memory.grows_writeAll _ (by simp [Engine.len]; omega), .refl _ _⟩

/-- The engine before the accumulation of a flush, after it and after the inverse transform. -/
theorem flushSaved_grows (fwdLength : KeepsLength e.len D.fwd) (slot : e.hcur < e.nb) :
    e.Grows (flushSave D (flushTransform D e)) :=
  (flushTransform_grows D e fwdLength slot).trans (flushSave_grows D _)

theorem flushAccumulated_grows (fwdLength : KeepsLength e.len D.fwd) (slot : e.hcur < e.nb) :
    e.Grows (flushAccumulated D e) :=
  (flushSaved_grows D e fwdLength slot).trans (flushAccumulate_grows D _)

theorem flushInverted_grows (fwdLength : KeepsLength e.len D.fwd) (invLength : KeepsLength e.len D.inv)
    (slot : e.hcur < e.nb) : e.Grows (flushInverse D (flushAccumulated D e)) := by
  have grows := flushAccumulated_grows D e fwdLength slot
  exact grows.trans (flushInverse_grows D _ (by rwa [grows.len]))

theorem blockFlush_grows (fwdLength : KeepsLength e.len D.fwd) (invLength : KeepsLength e.len D.inv)
    (slot : e.hcur < e.nb) : e.Grows (blockFlush D e) :=
  -- The cursors, which the last step moves, are no part of what grows.
  ((flushInverted_grows D e fwdLength invLength slot).trans (flushOverlap_grows D _)).trans
    ⟨rfl, rfl, rfl, .refl _ _, .refl _ _, .refl _ _, .refl _ _⟩

end

end Sys2Proof.Machine

/-! Every step keeps the invariant of the machine (10_state R33, R41, R44, 60_exceptions R128, 70_reset R141). -/

namespace Sys2Proof.Machine

/-- The invariant but for the status fields. -/
structure State.EngineInv (s : State) : Prop where
  canonical : s.MemoriesCanonical
  bounded : s.MemoriesBounded
  config : s.ConfigOk
  cursors : s.CursorsOk
  outputs : s.OutputsSpecified

theorem State.inv_iff (s : State) : s.Inv ↔ s.EngineInv ∧ s.StatusOk :=
  ⟨fun ⟨canonical, bounded, config, cursors, outputs, status⟩ => ⟨⟨canonical, bounded, config, cursors, outputs⟩, status⟩,
    fun ⟨⟨canonical, bounded, config, cursors, outputs⟩, status⟩ => ⟨canonical, bounded, config, cursors, outputs, status⟩⟩

/-- The invariant of the engine speaks of the engine, `STATE` and the staged samples alone. -/
theorem State.EngineInv.of_same {s t : State} (inv : s.EngineInv) (engine : t.toEngine = s.toEngine)
    (phase : t.phase = s.phase) (irbuf : t.irbuf = s.irbuf) (irWptr : t.irWptr = s.irWptr) : t.EngineInv := by
  obtain ⟨canonical, bounded, config, cursors, outputs⟩ := inv
  constructor <;> simp only [State.MemoriesCanonical, State.MemoriesBounded, State.ConfigOk, State.CursorsOk,
    State.OutputsSpecified, engine, phase, irbuf, irWptr] <;> assumption

/-! ## The status fields -/

/-- The cause goes with the result (60_exceptions R128). -/
def State.CauseFits (s : State) : Prop := causeFits s.lastErr s.errCause = true

theorem State.causeFits_succeed (s : State) : s.succeed.CauseFits := rfl

theorem State.CauseFits.checkReserved {body : State} (fits : body.CauseFits) (s : State) (clear : Bool) :
    (s.checkReserved clear body).CauseFits := by
  rcases s.checkReserved_cases clear body with ⟨_, e⟩ | ⟨_, e⟩ <;> rw [e]
  · exact fits
  · rfl

theorem State.CauseFits.checkBusy {body : State} (fits : body.CauseFits) (s : State) : (s.checkBusy body).CauseFits := by
  rcases s.checkBusy_cases body with ⟨_, e⟩ | ⟨_, e⟩ <;> rw [e]
  · exact fits
  · rfl

/-- Each check of `INIT_CHECK` pairs a code with one of its causes (40_setup R80). -/
theorem initCheck_causeFits (caps : Caps) (mode : BitVec 4) (cfgB cfgN irCount : Word) :
    causeFits (initCheck caps mode cfgB cfgN irCount).1 (initCheck caps mode cfgB cfgN irCount).2 = true := by
  unfold initCheck
  dsimp only
  repeat' split
  all_goals rfl

theorem State.causeFits_tryInit (s : State) (mode : BitVec 4) : (s.tryInit mode).CauseFits := by
  have fits := initCheck_causeFits Config.caps mode s.cfgB s.cfgN s.irWptr
  rcases s.tryInit_cases mode with ⟨_, e⟩ | ⟨c, x, check, _, e⟩ <;> rw [e]
  · rfl
  · rwa [check] at fits

theorem State.causeFits_appendIr (s : State) (d : Word) : (s.appendIr d).CauseFits := by
  rcases s.appendIr_cases d with ⟨_, e⟩ | ⟨_, e⟩ <;> rw [e] <;> rfl

theorem State.causeFits_tryPush (s : State) (x : Word) : (s.tryPush x).CauseFits := by
  rcases s.tryPush_cases x with ⟨_, e⟩ | ⟨_, e⟩ <;> rw [e] <;> rfl

theorem exec_causeFits {i : Instr} {s t : State} (reporting : Reporting i = true) (ran : exec i s = .next t) :
    t.CauseFits := by
  cases i <;> simp only [Reporting, Bool.false_eq_true] at reporting <;> cases ran
  case nop => exact .checkReserved (State.causeFits_succeed _) ..
  case init => exact .checkReserved (.checkBusy (State.causeFits_tryInit ..) _) ..
  case reset => exact .checkReserved (.checkBusy (State.causeFits_succeed _) _) ..
  case irBegin => exact .checkReserved (.checkBusy (State.causeFits_succeed _) _) ..
  case clrErr => exact .checkReserved (State.causeFits_succeed _) ..
  case cmdIllegal => rfl
  case wrIrData => exact .checkBusy (State.causeFits_appendIr ..) _
  case wrDin => exact .checkBusy (State.causeFits_tryPush ..) _

theorem exec_keeps_statusOk {i : Instr} {s t : State} (ok : s.StatusOk) (ran : exec i s = .next t) : t.StatusOk := by
  cases reporting : Reporting i with
  | true =>
    refine ⟨exec_causeFits reporting ran, fun failed => ?_⟩
    rw [(failingOperationsChangeOnlyStatus i s t reporting ran).1 failed]
  | false =>
    obtain ⟨lastErr, errCause, errSticky⟩ := exec_keeps_status reporting ran
    rwa [State.StatusOk, lastErr, errCause, errSticky]

theorem State.engineStep_keeps_statusOk {s : State} (ok : s.StatusOk) : s.engineStep.StatusOk := by
  obtain ⟨lastErr, errCause, errSticky⟩ := s.engineStep_keeps_status
  rwa [State.StatusOk, lastErr, errCause, errSticky]

/-! ## The engine's memories -/

/-- An engine whose memories grew within the words in use has canonical memories within the capacities. -/
theorem State.memories_of_grows {s t : State} (canonical : s.MemoriesCanonical) (bounded : s.MemoriesBounded)
    (spec : s.nb * 2 * s.b ≤ Config.specWords) (block : s.b ≤ Config.bMax) (irbuf : t.irbuf = s.irbuf)
    (grows : s.toEngine.Grows t.toEngine) : t.MemoriesCanonical ∧ t.MemoriesBounded := by
  obtain ⟨_, _, _, irspec, hist, acc, saved⟩ := grows
  obtain ⟨wfIrbuf, wfIrspec, wfHist, wfAcc, wfSaved⟩ := canonical
  obtain ⟨irbufBelow, irspecBelow, histBelow, accBelow, savedBelow⟩ := bounded
  have spec : s.nb * s.toEngine.len ≤ Config.specWords := by rwa [Engine.len, ← Nat.mul_assoc]
  have len : s.toEngine.len ≤ 2 * Config.bMax := Nat.mul_le_mul_left 2 block
  rw [State.MemoriesCanonical, State.MemoriesBounded, irbuf]
  exact ⟨⟨wfIrbuf, irspec.wf wfIrspec, hist.wf wfHist, acc.wf wfAcc, saved.wf wfSaved⟩, irbufBelow,
    irspec.below _ spec irspecBelow, hist.below _ spec histBelow, acc.below _ len accBelow,
    saved.below _ block savedBelow⟩

/-! ## Host operations -/

theorem State.EngineInv.acceptInit {s : State} {mode : BitVec 4} (inv : s.EngineInv)
    (accepted : (initCheck Config.caps mode s.cfgB s.cfgN s.irWptr).1 = .ok) : s.acceptInit.EngineInv := by
  obtain ⟨canonical, bounded, _, _, staged, writtenIrbuf, _, _⟩ := inv
  obtain ⟨_, _, bPos, bPow2, bMax, nPos, nMax, spec, count, _⟩ := initCheck_ok _ _ _ _ _ accepted
  have bMax : int32 s.cfgB ≤ Config.bMax := bMax
  have nMax : int32 s.cfgN ≤ Config.nMax := nMax
  refine ⟨canonical, bounded, ⟨nofun, fun _ => ?_⟩, ⟨fun _ => ⟨rfl, rfl⟩, nofun, nofun⟩, staged, writtenIrbuf,
    fun _ => ?_, fun running => ?_⟩
  · exact ⟨(and_pred_eq_zero_iff_isPow2 (b := (int32 s.cfgB).toNat) (by omega)).mp bPow2,
      show 1 ≤ (int32 s.cfgB).toNat by omega, show (int32 s.cfgB).toNat ≤ Config.bMax by omega, show 1 ≤ (int32 s.cfgN).toNat by omega,
      show (int32 s.cfgN).toNat ≤ Config.nMax by omega, rfl, spec⟩
  · change s.irWptr.toNat = (int32 s.cfgN).toNat
    omega
  · rcases running with h | h <;> cases h

theorem State.EngineInv.resetCommand {s : State} (inv : s.EngineInv) : s.resetCommand.EngineInv := by
  obtain ⟨⟨wfIrbuf, _⟩, ⟨irbufBelow, _⟩, _, _, staged, writtenIrbuf, _, _⟩ := inv
  refine ⟨⟨wfIrbuf, .nil, .nil, .nil, .nil⟩, ⟨irbufBelow, nofun, nofun, nofun, nofun⟩,
    ⟨fun _ => ⟨rfl, rfl, rfl⟩, fun h => absurd rfl h⟩, ⟨fun _ => ⟨rfl, rfl⟩, nofun, nofun⟩, staged, writtenIrbuf,
    nofun, fun running => ?_⟩
  rcases running with h | h <;> cases h

theorem State.EngineInv.irBegin {s : State} (inv : s.EngineInv) (idle : s.busy = false) :
    ({ s with irWptr := 0#32 } : State).EngineInv := by
  obtain ⟨canonical, bounded, config, cursors, _, _, _, written⟩ := inv
  refine ⟨canonical, bounded, config, cursors, Nat.zero_le _, fun i hi => absurd hi (Nat.not_lt_zero i),
    fun initBusy => ?_, written⟩
  rw [State.busy, show s.phase = .initBusy from initBusy] at idle
  cases idle

/-- The count of staged samples does not wrap around (40_setup R78). -/
theorem toNat_add_one_of_lt_nMax {w : Word} (room : w.toNat < Config.nMax) : (w + 1#32).toNat = w.toNat + 1 := by
  have capacity := nMax_add_bMax_lt
  have := one_le_bMax
  rw [BitVec.toNat_add, show (1#32).toNat = 1 from rfl]
  omega

theorem State.EngineInv.irData {s : State} (inv : s.EngineInv) (idle : s.busy = false) (d : Word)
    (room : s.irWptr.toNat < Config.nMax) :
    ({ s with irbuf := Memory.write s.irbuf s.irWptr.toNat d, irWptr := s.irWptr + 1#32 } : State).EngineInv := by
  obtain ⟨⟨wfIrbuf, wfEngine⟩, ⟨irbufBelow, engineBelow⟩, config, cursors, _, writtenIrbuf, _, written⟩ := inv
  have count := toNat_add_one_of_lt_nMax room
  refine ⟨⟨Memory.wf_write _ _ _ wfIrbuf, wfEngine⟩, ⟨Memory.below_write _ _ _ _ irbufBelow room, engineBelow⟩, config,
    cursors, ?_, ?_, fun initBusy => ?_, written⟩
  · exact count.trans_le room
  · change Memory.WrittenTo _ (s.irWptr + 1#32).toNat
    rw [count]
    exact Memory.writtenTo_append [d] writtenIrbuf
  · rw [State.busy, show s.phase = .initBusy from initBusy] at idle
    cases idle

theorem State.EngineInv.acceptPush {s : State} (inv : s.EngineInv) (ready : s.phase = .ready) (x : Word) :
    (s.acceptPush x).EngineInv := by
  obtain ⟨canonical, bounded, ⟨_, config⟩, ⟨_, cursors, _⟩, staged, writtenIrbuf, _, written⟩ := inv
  have active := config (by rw [ready]; nofun)
  have ⟨_, _, bMax, _, _, _, spec⟩ := active
  obtain ⟨inBlock, slot⟩ := cursors ready
  have grows := pushStore_grows x slot inBlock
  obtain ⟨canonical, bounded⟩ := State.memories_of_grows (t := s.acceptPush x) canonical bounded spec bMax rfl grows
  have phase : (s.acceptPush x).phase = if s.iib + 1 = s.b then .blockBusy else .ready := by
    rw [State.acceptPush_phase, ready]; rfl
  have running : (s.acceptPush x).phase ≠ .uninit ∧ (s.acceptPush x).phase ≠ .initBusy := by
    rw [phase]; split <;> exact ⟨nofun, nofun⟩
  refine ⟨canonical, bounded, ⟨fun h => absurd h running.1, fun _ => active⟩, ⟨fun h => ?_, fun h => ?_, fun h => ?_⟩,
    staged, writtenIrbuf, fun h => absurd h running.2, fun _ => grows.written (written (.inl ready))⟩
  · exact absurd h (not_or.mpr running)
  · rw [phase] at h
    have notFull : s.iib + 1 ≠ s.b := fun full => by rw [if_pos full] at h; cases h
    exact ⟨show s.iib + 1 < s.b by omega, slot⟩
  · rw [phase] at h
    have full : s.iib + 1 = s.b := by
      by_contra notFull
      rw [if_neg notFull] at h
      cases h
    exact ⟨full, slot⟩

theorem exec_keeps_engineInv {i : Instr} {s t : State} (inv : s.EngineInv) (ran : exec i s = .next t) : t.EngineInv := by
  cases read : IsRead i with
  | true =>
    rcases exec_read_effect i s t read ran with ⟨_, rfl⟩ | ⟨_, _, _, rfl⟩ <;> exact inv.of_same rfl rfl rfl rfl
  | false =>
    cases exec_write_effect i s t read ran with
    | init mode idle accepted =>
      exact (inv.acceptInit accepted).of_same rfl rfl rfl rfl
    | reset idle => exact inv.resetCommand.of_same rfl rfl rfl rfl
    | irBegin idle => exact (inv.irBegin idle).of_same rfl rfl rfl rfl
    | irData d idle room => exact (inv.irData idle d room).of_same rfl rfl rfl rfl
    | din x ready => exact (inv.acceptPush ready x).of_same rfl rfl rfl rfl
    | failed | nop | clrErr | cfgB | cfgN | dbgSel | ignored => exact inv.of_same rfl rfl rfl rfl

/-! ## Engine steps -/

/-- An engine step ends in `READY` with an engine that grew, is written, and has its cursors at a block's start. -/
theorem State.EngineInv.of_engine {s : State} (inv : s.EngineInv) (busy : s.phase ≠ .uninit) {e : Engine Word}
    (grows : s.toEngine.Grows e) (written : e.Written) (iib : e.iib = 0) (hcur : e.hcur < e.nb) :
    ({ s with toEngine := e, phase := .ready } : State).EngineInv := by
  obtain ⟨canonical, bounded, ⟨_, config⟩, _, staged, writtenIrbuf, _, _⟩ := inv
  obtain ⟨pow2, bPos, bMax, nPos, nMax, nb, spec⟩ := config busy
  obtain ⟨canonical, bounded⟩ := State.memories_of_grows (t := { s with toEngine := e, phase := .ready }) canonical
    bounded spec bMax rfl grows
  refine ⟨canonical, bounded, ⟨nofun, fun _ => ?_⟩, ⟨fun h => ?_, fun _ => ⟨?_, hcur⟩, nofun⟩, staged, writtenIrbuf,
    nofun, fun _ => written⟩
  · dsimp only
    rw [grows.b, grows.n, grows.nb]
    exact ⟨pow2, bPos, bMax, nPos, nMax, nb, spec⟩
  · rcases h with h | h <;> cases h
  · dsimp only
    rw [iib, grows.b]
    exact bPos

theorem State.engineStep_keeps_engineInv {s : State} (inv : s.EngineInv) : s.engineStep.EngineInv := by
  obtain ⟨fwdLength, invLength⟩ := blockDatapath_keepsLength s.resets s.toEngine.len
  rcases s.engineStep_cases with ⟨initBusy, e⟩ | ⟨blockBusy, e⟩ | ⟨_, e⟩ <;> rw [e]
  · have notUninit : s.phase ≠ .uninit := by rw [initBusy]; nofun
    obtain ⟨_, _, _, iib, hcur⟩ := initSequence_config (blockDatapath s.resets) s.irSample s.toEngine
    obtain ⟨grows, written⟩ := initSequence_grows (blockDatapath s.resets) s.irSample fwdLength
    obtain ⟨_, _, _, _, _, nb, _⟩ := inv.config.2 notUninit
    refine inv.of_engine notUninit grows written iib ?_
    rw [hcur, grows.nb, nb]
    exact Nat.succ_pos _
  · obtain ⟨_, _, _, _, iib, hcur⟩ := blockFlush_frame (blockDatapath s.resets) s.toEngine
    have slot := (inv.cursors.2.2 blockBusy).2
    have grows := blockFlush_grows (blockDatapath s.resets) s.toEngine fwdLength invLength slot
    refine inv.of_engine (by rw [blockBusy]; nofun) grows
      (grows.written (inv.outputs.2.2.2 (.inr blockBusy))) iib ?_
    rw [hcur, grows.nb]
    exact Nat.mod_lt _ (Nat.zero_lt_of_lt slot)
  · exact inv

/-! ## Steps -/

/-- Settles O45: nothing is configured, staged or reported. -/
theorem resetMeetsTheInvariant : Obligations.ResetMeetsTheInvariant := by
  refine ⟨State.reset_memories_canonical, ⟨nofun, nofun, nofun, nofun, nofun⟩,
    ⟨fun _ => ⟨rfl, rfl, rfl⟩, fun h => absurd rfl h⟩, ⟨fun _ => ⟨rfl, rfl⟩, nofun, nofun⟩,
    ⟨Nat.zero_le _, fun i hi => absurd hi (Nat.not_lt_zero i), nofun, fun running => ?_⟩, rfl, fun h => absurd rfl h⟩
  rcases running with h | h <;> cases h

/-- Who moves next and the host's events are no part of the invariant. -/
theorem State.Inv.drawTurn {s : State} (inv : s.Inv) : s.drawTurn.Inv := by
  obtain ⟨engine, status⟩ := s.inv_iff.mp inv
  refine (State.inv_iff _).mpr ⟨engine.of_same (by simp) (by simp) (by simp) (by simp), ?_⟩
  rwa [State.StatusOk, State.drawTurn_lastErr, State.drawTurn_errCause, State.drawTurn_errSticky]

theorem State.Inv.with_pending {s : State} (inv : s.Inv) (rest : List HostEvent) :
    ({ s with pending := rest } : State).Inv := by
  obtain ⟨engine, status⟩ := s.inv_iff.mp inv
  exact (State.inv_iff _).mpr ⟨engine.of_same rfl rfl rfl rfl, status⟩

theorem State.hardwareReset_inv (s : State) : s.hardwareReset.Inv := by
  obtain ⟨engine, status⟩ := State.reset.inv_iff.mp resetMeetsTheInvariant
  exact (State.inv_iff _).mpr ⟨engine.of_same rfl rfl rfl rfl, status⟩

theorem exec_keeps_inv {i : Instr} {s t : State} (inv : s.Inv) (ran : exec i s = .next t) : t.Inv := by
  obtain ⟨engine, status⟩ := s.inv_iff.mp inv
  exact t.inv_iff.mpr ⟨exec_keeps_engineInv engine ran, exec_keeps_statusOk status ran⟩

theorem State.engineStep_keeps_inv {s : State} (inv : s.Inv) : s.engineStep.Inv := by
  obtain ⟨engine, status⟩ := s.inv_iff.mp inv
  exact (State.inv_iff _).mpr ⟨State.engineStep_keeps_engineInv engine, State.engineStep_keeps_statusOk status⟩

/-- Settles O46: an engine step, a hardware reset and every host operation keep the invariant, and the draw of who moves
next is no part of it. -/
theorem stepKeepsTheInvariant : Obligations.StepKeepsTheInvariant := by
  intro s t inv ran
  rcases step_cases s t ran with ⟨_, _, rfl⟩ | ⟨_, rfl⟩ | ⟨rest, _, rfl⟩ | ⟨_, rest, _, u, _, _, done, rfl⟩ |
    ⟨_, rest, _, _, rfl⟩
  · exact (State.engineStep_keeps_inv inv).drawTurn
  · exact inv.drawTurn
  · exact (State.hardwareReset_inv _).drawTurn
  · exact (exec_keeps_inv (inv.with_pending rest) done).drawTurn
  · exact (inv.with_pending rest).drawTurn

/-! ## The counts and cursors of each `STATE` -/

/-- Settles O33: in `UNINIT` the invariant has every count and cursor 0, in `INIT_BUSY` the cursors, and in `BLOCK_BUSY`
the index at the block's end. -/
theorem countsAndCursorsReadByState : Obligations.CountsAndCursorsReadByState := by
  intro s inv
  obtain ⟨unconfigured, _⟩ := inv.config
  obtain ⟨cursors, _, full⟩ := inv.cursors
  refine ⟨fun uninit i reads => ?_, fun initBusy i reads => ?_, fun blockBusy => ?_⟩
  · obtain ⟨b, n, nb⟩ := unconfigured uninit
    obtain ⟨iib, hcur⟩ := cursors (.inl uninit)
    simp only [List.mem_cons, List.not_mem_nil, or_false] at reads
    rcases reads with rfl | rfl | rfl | rfl | rfl <;>
      simp only [exec, execRdNumBlocks, execRdActB, execRdActN, execRdIndexInBlock, execRdHistCursor, b, n, nb, iib,
        hcur] <;> rfl
  · obtain ⟨iib, hcur⟩ := cursors (.inr initBusy)
    simp only [List.mem_cons, List.not_mem_nil, or_false] at reads
    rcases reads with rfl | rfl <;> simp only [exec, execRdIndexInBlock, execRdHistCursor, iib, hcur] <;> rfl
  · obtain ⟨iib, _⟩ := full blockBusy
    rw [exec, execRdIndexInBlock, iib]
    rfl

end Sys2Proof.Machine

/-! The contents of the words never written reach no output (70_reset R141): with others in their place the engine's
sequences leave the very same engine. -/

namespace Sys2Proof.Machine

variable {α : Type}

/-- The same arithmetic over memories with other contents of the words never written. -/
def Datapath.withUnwritten (D : Datapath α) (other : MemSel → Nat → α) : Datapath α := { D with unwritten := other }

section
variable (D : Datapath α) (other : MemSel → Nat → α)

/-! ## Reading written words -/

theorem word_withUnwritten (sel : MemSel) {m : Memory α} {len i : Nat} (written : Memory.WrittenTo m len)
    (hi : i < len) : (D.withUnwritten other).word sel m i = D.word sel m i := by
  obtain ⟨v, read⟩ := Option.isSome_iff_exists.mp (written i hi)
  rw [Datapath.word_of_read? _ _ _ _ _ read, Datapath.word_of_read? _ _ _ _ _ read]

theorem words_withUnwritten (sel : MemSel) {m : Memory α} {written base len : Nat} (all : Memory.WrittenTo m written)
    (within : base + len ≤ written) : (D.withUnwritten other).words sel m base len = D.words sel m base len :=
  List.map_congr_left fun k hk => word_withUnwritten D other sel all (by have := List.mem_range.mp hk; omega)

theorem transformInPlace_withUnwritten (dir : FftDir) (sel : MemSel) {m : Memory α} {written base len : Nat}
    (all : Memory.WrittenTo m written) (within : base + len ≤ written) :
    (D.withUnwritten other).transformInPlace dir sel m base len = D.transformInPlace dir sel m base len := by
  rw [Datapath.transformInPlace, words_withUnwritten D other sel all within]
  rfl

/-! ## The initialization sequence -/

/-- An impulse-response block holds samples below `N` and zeros, and no word of a memory. -/
theorem irBlock_withUnwritten {ir ir' : Nat → α} {n : Nat} (staged : ∀ i, i < n → ir' i = ir i) (b j : Nat) :
    irBlock (D.withUnwritten other) ir' n b j = irBlock D ir n b j := by
  refine List.map_congr_left fun k _ => ?_
  split
  · next inside => exact staged _ inside.2
  · rfl

/-- The words transformed are the block just stored, whatever stood there. -/
theorem initBlock_withUnwritten {ir ir' : Nat → α} {e : Engine α} (staged : ∀ i, i < e.n → ir' i = ir i) (j : Nat) :
    initBlock (D.withUnwritten other) ir' e j = initBlock D ir e j := by
  have stored (D : Datapath α) (ir : Nat → α) :
      D.words .irspec (Memory.writeAll e.irspec (j * e.len) (irBlock D ir e.n e.b j)) (j * e.len) e.len =
        irBlock D ir e.n e.b j := D.words_writeAll _ _ _ (irBlock_length ..)
  rw [initBlock, initBlock, Datapath.transformInPlace, Datapath.transformInPlace, stored, stored,
    irBlock_withUnwritten D other staged]
  rfl

theorem initBlocks_withUnwritten {ir ir' : Nat → α} (js : List Nat) {e : Engine α}
    (staged : ∀ i, i < e.n → ir' i = ir i) :
    js.foldl (initBlock (D.withUnwritten other) ir') e = js.foldl (initBlock D ir) e := by
  induction js generalizing e with
  | nil => rfl
  | cons j js ih =>
    rw [List.foldl_cons, List.foldl_cons, initBlock_withUnwritten D other staged]
    exact ih staged

theorem initSequence_withUnwritten {ir ir' : Nat → α} {e : Engine α} (staged : ∀ i, i < e.n → ir' i = ir i) :
    initSequence (D.withUnwritten other) ir' e = initSequence D ir e := by
  rw [initSequence, initBlocks_withUnwritten D other _ staged]
  rfl

/-! ## The block flush -/

variable {e : Engine α} (written : e.Written)
include written

theorem flushTransform_withUnwritten (slot : e.hcur < e.nb) :
    flushTransform (D.withUnwritten other) e = flushTransform D e := by
  obtain ⟨_, hist, _, _⟩ := written
  have padded := Memory.writtenTo_writeAll _ (e.hcur * e.len + e.b) _ (D.zeros e.b) hist
  rw [flushTransform]
  simp only [show (D.withUnwritten other).zeros e.b = D.zeros e.b from rfl,
    transformInPlace_withUnwritten D other .forward .hist padded (slot_within e.len slot)]
  rfl

theorem flushSave_withUnwritten : flushSave (D.withUnwritten other) e = flushSave D e := by
  obtain ⟨_, _, acc, _⟩ := written
  rw [flushSave, words_withUnwritten D other .acc acc (by rw [Engine.len]; omega)]
  rfl

omit written in
/-- A new word of `ACC` depends on the `L` words of either spectrum alone. -/
theorem pmacWord_withUnwritten {b k : Nat} {h h' x x' : Nat → α} (old : α) (hk : k < 2 * b)
    (spectrum : ∀ i, i < 2 * b → h' i = h i) (history : ∀ i, i < 2 * b → x' i = x i) :
    pmacWord (D.withUnwritten other) b h' x' old k = pmacWord D b h x old k := by
  change pmacWord D b h' x' old k = _
  rw [pmacWord, pmacWord, spectrum k hk, history k hk]
  by_cases real : k = 0 ∨ k = b
  · rw [if_pos real, if_pos real]
  · rw [if_neg real, if_neg real, spectrum (2 * b - k) (by omega), history (2 * b - k) (by omega)]

theorem pmac_withUnwritten {j s : Nat} (block : j < e.nb) (slot : s < e.nb) :
    pmac (D.withUnwritten other) e j s = pmac D e j s := by
  obtain ⟨irspec, hist, acc, _⟩ := written
  have blockWithin := slot_within e.len block
  have slotWithin := slot_within e.len slot
  have words : ∀ k ∈ List.range e.len,
      pmacWord (D.withUnwritten other) e.b (fun k => (D.withUnwritten other).word .irspec e.irspec (j * e.len + k))
          (fun k => (D.withUnwritten other).word .hist e.hist (s * e.len + k))
          ((D.withUnwritten other).word .acc e.acc k) k =
        pmacWord D e.b (fun k => D.word .irspec e.irspec (j * e.len + k)) (fun k => D.word .hist e.hist (s * e.len + k))
          (D.word .acc e.acc k) k := by
    intro k mem
    have hk : k < 2 * e.b := List.mem_range.mp mem
    rw [word_withUnwritten D other .acc acc hk]
    refine pmacWord_withUnwritten D other _ hk (fun i hi => ?_) (fun i hi => ?_)
    · have hi : i < e.len := hi
      exact word_withUnwritten D other .irspec irspec (by omega)
    · have hi : i < e.len := hi
      exact word_withUnwritten D other .hist hist (by omega)
  rw [pmac, pmac]
  exact congrArg (fun acc => { e with acc := Memory.writeAll e.acc 0 acc }) (List.map_congr_left words)

theorem pmacs_withUnwritten {slot : Nat → Nat} {js : List Nat} (blocks : ∀ j ∈ js, j < e.nb ∧ slot j < e.nb) :
    js.foldl (fun a j => pmac (D.withUnwritten other) a j (slot j)) e = js.foldl (fun a j => pmac D a j (slot j)) e := by
  induction js generalizing e with
  | nil => rfl
  | cons j js ih =>
    obtain ⟨block, inRing⟩ := blocks j List.mem_cons_self
    rw [List.foldl_cons, List.foldl_cons, pmac_withUnwritten D other written block inRing]
    exact ih ((pmac_grows D e j (slot j)).written written) fun i mem => blocks i (List.mem_cons_of_mem j mem)

theorem flushAccumulate_withUnwritten (slot : e.hcur < e.nb) :
    flushAccumulate (D.withUnwritten other) e = flushAccumulate D e :=
  pmacs_withUnwritten D other written fun j mem =>
    ⟨List.mem_range.mp mem, (pastSlotIsJRoundsBack e.hcur e.nb j slot).1⟩

theorem flushInverse_withUnwritten : flushInverse (D.withUnwritten other) e = flushInverse D e := by
  obtain ⟨_, _, acc, _⟩ := written
  rw [flushInverse, transformInPlace_withUnwritten D other .inverse .acc acc (Nat.zero_add _).le]
  rfl

theorem flushOverlap_withUnwritten : flushOverlap (D.withUnwritten other) e = flushOverlap D e := by
  obtain ⟨_, _, acc, saved⟩ := written
  have sums : ∀ k ∈ List.range e.b,
      D.add ((D.withUnwritten other).word .acc e.acc k) ((D.withUnwritten other).word .saved e.saved k) =
        D.add (D.word .acc e.acc k) (D.word .saved e.saved k) := by
    intro k mem
    have hk : k < e.b := List.mem_range.mp mem
    rw [word_withUnwritten D other .acc acc (show k < e.len by rw [Engine.len]; omega),
      word_withUnwritten D other .saved saved hk]
  rw [flushOverlap, flushOverlap]
  exact congrArg (fun sums => { e with acc := Memory.writeAll e.acc 0 sums }) (List.map_congr_left sums)

/-- Each step of the flush reads written words, and leaves them written for the next. -/
theorem blockFlush_withUnwritten (fwdLength : KeepsLength e.len D.fwd) (invLength : KeepsLength e.len D.inv)
    (slot : e.hcur < e.nb) : blockFlush (D.withUnwritten other) e = blockFlush D e := by
  have transformed := (flushTransform_grows D e fwdLength slot).written written
  have saved := (flushSaved_grows D e fwdLength slot).written written
  have accumulated := (flushAccumulated_grows D e fwdLength slot).written written
  have inverted := (flushInverted_grows D e fwdLength invLength slot).written written
  rw [flushAccumulated] at accumulated inverted
  rw [blockFlush, flushTransform_withUnwritten D other written slot, flushSave_withUnwritten D other transformed,
    flushAccumulate_withUnwritten D other saved slot, flushInverse_withUnwritten D other accumulated,
    flushOverlap_withUnwritten D other inverted, blockFlush]

theorem pushOutput_withUnwritten (inBlock : e.iib < e.b) :
    pushOutput (D.withUnwritten other) e = pushOutput D e := by
  obtain ⟨_, _, acc, _⟩ := written
  exact word_withUnwritten D other .acc acc (by rw [Engine.len]; omega)

end

/-- Settles O47: the initialization writes each word before it reads it, and a flush and a push of a written engine read
written words only. -/
theorem unwrittenWordsReachNoOutput : Obligations.UnwrittenWordsReachNoOutput := by
  refine ⟨fun s i v read => (blockDatapath s.resets).word_of_read? .irbuf s.irbuf i v read,
    fun α D other e ir ir' fwdLength invLength => ⟨initSequence_withUnwritten D other, fun written slot =>
      ⟨blockFlush_withUnwritten D other written fwdLength invLength slot,
        pushOutput_withUnwritten D other written⟩⟩⟩

end Sys2Proof.Machine

/-! A real rounded once to binary32 (00_scope R11, R16): `roundReal` gives the nearest word, ties to even, and infinity
from `2^128 - 2^103` on. Magnitudes are counted in units of `2^-149`. -/

namespace Sys2Proof.Machine

/-! ## The nearest integer -/

/-- The rounding is within a half, and exactly a half away it is even. -/
theorem roundHalfEven_near {t : ℝ} (nonneg : 0 ≤ t) :
    |(roundHalfEven t : ℝ) - t| ≤ 1 / 2 ∧ (|(roundHalfEven t : ℝ) - t| = 1 / 2 → roundHalfEven t % 2 = 0) := by
  have above := Nat.floor_le nonneg
  have below := Nat.lt_floor_add_one t
  unfold roundHalfEven
  dsimp only
  split
  · next up =>
    have distance : |((⌊t⌋₊ + 1 : ℕ) : ℝ) - t| = 1 - (t - ⌊t⌋₊) := by
      push_cast
      rw [abs_of_pos (by linarith)]
      ring
    rw [distance]
    rcases up with gt | ⟨tie, odd⟩
    · exact ⟨by linarith, fun half => by linarith⟩
    · exact ⟨by linarith, fun _ => by omega⟩
  · next down =>
    have distance : |(⌊t⌋₊ : ℝ) - t| = t - ⌊t⌋₊ := by
      rw [abs_sub_comm, abs_of_nonneg (by linarith)]
    rw [distance]
    rw [not_or, not_lt, not_and] at down
    obtain ⟨le, even⟩ := down
    exact ⟨le, fun half => Nat.mod_two_ne_one.mp (even half)⟩

theorem le_roundHalfEven {t : ℝ} {n : ℕ} (le : (n : ℝ) ≤ t) : n ≤ roundHalfEven t := by
  have near := (abs_le.mp (roundHalfEven_near (n.cast_nonneg.trans le)).1).1
  have : (n : ℝ) < (roundHalfEven t + 1 : ℕ) := by push_cast; linarith
  exact Nat.lt_succ_iff.mp (Nat.cast_lt.mp this)

theorem roundHalfEven_le {t : ℝ} {n : ℕ} (nonneg : 0 ≤ t) (le : t ≤ n) : roundHalfEven t ≤ n := by
  have near := (abs_le.mp (roundHalfEven_near nonneg).1).2
  have : (roundHalfEven t : ℝ) < (n + 1 : ℕ) := by push_cast; linarith
  exact Nat.lt_succ_iff.mp (Nat.cast_lt.mp this)

/-- Halfway below an even number the tie goes up to it. -/
theorem roundHalfEven_lt_iff {t : ℝ} {n : ℕ} (nonneg : 0 ≤ t) (even : n % 2 = 0) (pos : 1 ≤ n) :
    roundHalfEven t < n ↔ t < n - 1 / 2 := by
  obtain ⟨near, tie⟩ := roundHalfEven_near nonneg
  obtain ⟨lower, upper⟩ := abs_le.mp near
  constructor
  · intro lt
    have predecessor : (roundHalfEven t : ℝ) ≤ n - 1 := by
      rw [← Nat.cast_pred pos]
      exact Nat.cast_le.mpr (by omega)
    by_contra ge
    have half : |(roundHalfEven t : ℝ) - t| = 1 / 2 := by
      rw [abs_sub_comm, abs_of_nonneg (by linarith)]
      linarith
    have last : (roundHalfEven t : ℝ) = n - 1 := by linarith
    rw [← Nat.cast_pred pos] at last
    have := Nat.cast_injective last
    have := tie half
    omega
  · intro lt
    exact Nat.cast_lt.mp (show (roundHalfEven t : ℝ) < n by linarith)

/-- No integer is nearer than one within a half, and another as near makes it a tie. -/
theorem nearest_integer {t : ℝ} {q z : ℤ} (near : |(q : ℝ) - t| ≤ 1 / 2) :
    |(q : ℝ) - t| ≤ |(z : ℝ) - t| ∧ (|(q : ℝ) - t| = |(z : ℝ) - t| → z ≠ q → |(q : ℝ) - t| = 1 / 2) := by
  by_cases same : z = q
  · exact ⟨by rw [same], fun _ ne => absurd same ne⟩
  · have apart : (1 : ℝ) ≤ |(z : ℝ) - q| := by
      rw [← Int.cast_sub, ← Int.cast_abs]
      exact_mod_cast Int.one_le_abs (sub_ne_zero.mpr same)
    have triangle := abs_sub_le (z : ℝ) t q
    rw [abs_sub_comm t] at triangle
    exact ⟨by linarith, fun tie _ => by linarith⟩

/-! ## The significand kept -/

/-- The place of the last bit kept of a real magnitude, as `roundReal` chooses it. -/
noncomputable def realPlace (u : ℝ) : ℕ := Nat.log2 ⌊u⌋₊ + 1 - 24

/-- The significand kept. -/
noncomputable def realSignificand (u : ℝ) : ℕ := roundHalfEven (u / 2 ^ realPlace u)

/-- The 31 low bits of the word before what is too large becomes infinity. -/
noncomputable def realBits (u : ℝ) : ℕ := realPlace u * 2 ^ 23 + realSignificand u

theorem roundReal_eq (r : ℝ) : roundReal r = fpPack (decide (r < 0)) (min (realBits (|r| * 2 ^ 149)) 0x7F800000) := rfl

section
variable {u : ℝ} (nonneg : 0 ≤ u)

/-- 24 bits are kept, the leading one the hidden bit unless the place is the lowest. -/
theorem realPlace_spec : u < 2 ^ 24 * 2 ^ realPlace u ∧ (realPlace u = 0 ∨ 2 ^ 23 * 2 ^ realPlace u ≤ u) := by
  obtain ⟨small, hidden⟩ := leading_significand ⌊u⌋₊
  have place : Nat.log2 ⌊u⌋₊ - 23 = realPlace u := by unfold realPlace; omega
  rw [place] at small hidden
  constructor
  · have := (Nat.floor_lt' (a := u) (by positivity)).mp ((Nat.div_lt_iff_lt_mul (Nat.two_pow_pos _)).mp small)
    exact_mod_cast this
  · refine hidden.imp_right fun large => ?_
    have := (Nat.le_div_iff_mul_le (Nat.two_pow_pos _)).mp large
    have := (Nat.le_floor_iff' (by positivity)).mp this
    exact_mod_cast this

include nonneg

theorem scaled_nonneg : 0 ≤ u / 2 ^ realPlace u := by positivity

theorem realSignificand_spec :
    realSignificand u ≤ 2 ^ 24 ∧ (realPlace u = 0 ∨ 2 ^ 23 ≤ realSignificand u) := by
  obtain ⟨small, hidden⟩ := realPlace_spec (u := u)
  have pos : (0 : ℝ) < 2 ^ realPlace u := by positivity
  constructor
  · refine roundHalfEven_le (scaled_nonneg nonneg) ?_
    rw [div_le_iff₀ pos]
    exact_mod_cast small.le
  · refine hidden.imp_right fun large => le_roundHalfEven ?_
    rw [le_div_iff₀ pos]
    exact_mod_cast large

/-- What is rounded to infinity (00_scope R11): the tie above the largest finite value goes up. -/
theorem realBits_lt_iff : realBits u < 0x7F800000 ↔ u < (2 ^ 25 - 1) * 2 ^ 252 := by
  obtain ⟨small, hidden⟩ := realPlace_spec (u := u)
  obtain ⟨significand, leading⟩ := realSignificand_spec nonneg
  unfold realBits
  rcases lt_trichotomy (realPlace u) 253 with low | top | high
  · refine iff_of_true (by omega) (small.trans_le ?_)
    have := pow_le_pow_right₀ (show (1 : ℝ) ≤ 2 by norm_num) (show realPlace u ≤ 252 by omega)
    linarith
  · have full : realPlace u * 2 ^ 23 + realSignificand u < 0x7F800000 ↔ realSignificand u < 2 ^ 24 := by omega
    have tie := roundHalfEven_lt_iff (n := 2 ^ 24) (scaled_nonneg nonneg) (by norm_num) (by norm_num)
    rw [full, realSignificand, tie, top, div_lt_iff₀ (by positivity)]
    norm_num
  · refine iff_of_false (by omega) (not_lt.mpr ?_)
    have large := hidden.resolve_left (by omega)
    have := pow_le_pow_right₀ (show (1 : ℝ) ≤ 2 by norm_num) (show 254 ≤ realPlace u by omega)
    linarith

/-- The magnitude of the word: the significand at its place, also where the rounding carried into the next one. -/
theorem fpMagnitude_realBits (neg : Bool) (finite : realBits u < 0x7F800000) :
    fpMagnitude (fpPack neg (realBits u)) = realSignificand u * 2 ^ realPlace u := by
  obtain ⟨significand, leading⟩ := realSignificand_spec nonneg
  unfold realBits at finite ⊢
  rcases significand.lt_or_eq with lt | carry
  · exact fpMagnitude_fpPack neg (by omega) lt leading
  · have next : realPlace u * 2 ^ 23 + realSignificand u = (realPlace u + 1) * 2 ^ 23 + 2 ^ 23 := by omega
    rw [next, fpMagnitude_fpPack neg (by omega) (by norm_num) (.inr le_rfl), carry, pow_succ]
    ring

end

/-! ## No finite word is nearer -/

/-- A finite value has no bit below the place kept, or lies below the binade of the value rounded. -/
theorem fpValue_dvd_or_lt (w : Word) (k : ℕ) (neg : Bool) :
    let v := if neg then -fpValue w else fpValue w
    (2 ^ k : ℤ) ∣ v ∨ (v < 2 ^ 23 * 2 ^ k ∧ k ≠ 0) := by
  intro v
  obtain ⟨c, e, hc, significand⟩ := fpMagnitude_eq_significand w
  have size : v.natAbs = c * 2 ^ e := by
    rw [← significand, ← natAbs_fpValue w]
    unfold v
    split
    · exact Int.natAbs_neg _
    · rfl
  by_cases low : k ≤ e
  · left
    rw [← Int.natAbs_dvd_natAbs, size, Int.natAbs_pow]
    exact (pow_dvd_pow 2 low).mul_left c
  · right
    have : c * 2 ^ e < 2 ^ 23 * 2 ^ k := calc
      c * 2 ^ e < 2 ^ 24 * 2 ^ e := Nat.mul_lt_mul_of_pos_right hc (Nat.two_pow_pos e)
      _ = 2 ^ 23 * 2 ^ (e + 1) := by ring
      _ ≤ 2 ^ 23 * 2 ^ k := Nat.mul_le_mul_left _ (Nat.pow_le_pow_right (by decide) (by omega))
    have : (v.natAbs : ℤ) < 2 ^ 23 * 2 ^ k := by rw [size]; exact_mod_cast this
    exact ⟨by omega, by omega⟩

/-- Rounding at the place kept is rounding among all finite values. -/
theorem nearest_significand {u : ℝ} (nonneg : 0 ≤ u) {v : ℤ}
    (value : (2 ^ realPlace u : ℤ) ∣ v ∨ (v < 2 ^ 23 * 2 ^ realPlace u ∧ realPlace u ≠ 0)) :
    let m : ℤ := realSignificand u * 2 ^ realPlace u
    |(m : ℝ) - u| ≤ |(v : ℝ) - u| ∧ (|(m : ℝ) - u| = |(v : ℝ) - u| → v ≠ m → realSignificand u % 2 = 0) := by
  intro m
  obtain ⟨near, tie⟩ := roundHalfEven_near (scaled_nonneg nonneg)
  have pos : (0 : ℝ) < 2 ^ realPlace u := by positivity
  have scaled (z : ℤ) : |((z * 2 ^ realPlace u : ℤ) : ℝ) - u| = |(z : ℝ) - u / 2 ^ realPlace u| * 2 ^ realPlace u := by
    conv_rhs => rw [← abs_of_pos pos, ← abs_mul, sub_mul, abs_of_pos pos, div_mul_cancel₀ _ pos.ne']
    push_cast
    rfl
  have distance : |(m : ℝ) - u| = |((realSignificand u : ℤ) : ℝ) - u / 2 ^ realPlace u| * 2 ^ realPlace u :=
    scaled (realSignificand u)
  rcases value with ⟨z, rfl⟩ | ⟨below, notLowest⟩
  · obtain ⟨nearer, ties⟩ := nearest_integer (z := z) (q := realSignificand u) near
    rw [mul_comm, distance, scaled]
    refine ⟨mul_le_mul_of_nonneg_right nearer pos.le, fun same ne => tie (ties ?_ ?_)⟩
    · exact mul_right_cancel₀ pos.ne' same
    · rintro rfl
      exact ne rfl
  · have leading := realPlace_spec.2.resolve_left notLowest
    have below : (v : ℝ) < 2 ^ 23 * 2 ^ realPlace u := by exact_mod_cast below
    have binade : ((2 ^ 23 * 2 ^ realPlace u : ℤ) : ℝ) = 2 ^ 23 * 2 ^ realPlace u := by norm_num
    have nearer := (nearest_integer (z := 2 ^ 23) (q := realSignificand u) near).1
    have closer : |(m : ℝ) - u| < |(v : ℝ) - u| := calc
      |(m : ℝ) - u| ≤ |((2 ^ 23 : ℤ) : ℝ) - u / 2 ^ realPlace u| * 2 ^ realPlace u := by
        rw [distance]
        exact mul_le_mul_of_nonneg_right nearer pos.le
      _ = u - 2 ^ 23 * 2 ^ realPlace u := by
        rw [← scaled, binade, abs_sub_comm, abs_of_nonneg (by linarith)]
      _ < u - v := by linarith
      _ = |(v : ℝ) - u| := by rw [abs_sub_comm, abs_of_pos (by linarith)]
    exact ⟨closer.le, fun same => absurd same closer.ne⟩

/-! ## The word of a real -/

theorem fpIsInf_fpInf (neg : Bool) : fpIsInf (fpInf neg) = true := by cases neg <;> decide

/-- The distance of a word to a real, in units of `2^-149` and with the sign of the real taken off. -/
theorem abs_fpReal_sub (w : Word) (r : ℝ) :
    |fpReal w - r| * 2 ^ 149 =
      |((if decide (r < 0) then -fpValue w else fpValue w : ℤ) : ℝ) - |r| * 2 ^ 149| := by
  have units : |fpReal w - r| * 2 ^ 149 = |(fpValue w : ℝ) - r * 2 ^ 149| := by
    conv_lhs => rw [← abs_of_pos (show (0 : ℝ) < 2 ^ 149 by positivity), ← abs_mul]
    rw [fpReal, sub_mul, div_mul_cancel₀ _ (by positivity)]
  rw [units]
  by_cases neg : r < 0
  · rw [decide_eq_true neg, if_pos rfl, abs_of_neg neg, abs_sub_comm]
    congr 1
    push_cast
    ring
  · rw [decide_eq_false neg, if_neg Bool.false_ne_true, abs_of_nonneg (not_lt.mp neg)]

/-- `roundReal` rounds to nearest, ties to even. -/
theorem roundsRealTo_roundReal (r : ℝ) : RoundsRealTo r (roundReal r) := by
  have nonneg : 0 ≤ |r| * 2 ^ 149 := by positivity
  have threshold : realBits (|r| * 2 ^ 149) < 0x7F800000 ↔ |r| < 2 ^ 128 - 2 ^ 103 := by
    rw [realBits_lt_iff nonneg, show ((2 : ℝ) ^ 25 - 1) * 2 ^ 252 = (2 ^ 128 - 2 ^ 103) * 2 ^ 149 by norm_num]
    exact mul_lt_mul_iff_left₀ (by positivity)
  rw [roundReal_eq]
  refine ⟨?_, fun overflow => ?_, fun inRange => ?_⟩
  · rw [fpSign_fpPack _ (by omega), decide_eq_true_iff]
  · have large := not_lt.mp (mt threshold.mp (not_lt.mpr overflow))
    rw [Nat.min_eq_right large]
    exact fpIsInf_fpInf _
  · have finite := threshold.mpr inRange
    rw [Nat.min_eq_left finite.le]
    refine ⟨fpIsFinite_fpPack _ finite, fun w' _ => ?_⟩
    have magnitude := fpMagnitude_realBits nonneg (decide (r < 0)) finite
    have even : fpFrac (fpPack (decide (r < 0)) (realBits (|r| * 2 ^ 149))) % 2 =
        realSignificand (|r| * 2 ^ 149) % 2 := by
      rw [fpFrac_fpPack _ (by omega), realBits]
      omega
    have value : (if decide (r < 0) then -fpValue (fpPack (decide (r < 0)) (realBits (|r| * 2 ^ 149)))
        else fpValue (fpPack (decide (r < 0)) (realBits (|r| * 2 ^ 149)))) =
        (realSignificand (|r| * 2 ^ 149) * 2 ^ realPlace (|r| * 2 ^ 149) : ℤ) := by
      rw [fpValue, fpSign_fpPack _ (by omega), magnitude]
      cases decide (r < 0) <;> simp
    obtain ⟨nearest, tie⟩ := nearest_significand nonneg (fpValue_dvd_or_lt w' _ (decide (r < 0)))
    have scale : (0 : ℝ) < 2 ^ 149 := by positivity
    rw [← mul_le_mul_iff_left₀ scale, ← mul_left_inj' scale.ne', abs_fpReal_sub, abs_fpReal_sub, value, even]
    refine ⟨nearest, fun same ne => tie same fun eq => ne ?_⟩
    rw [← value] at eq
    split at eq
    · exact neg_injective eq
    · exact eq

end Sys2Proof.Machine

/-! The binary32 operations of the block: finite operands are rounded once, and infinities and NaNs as IEEE 754 has them
(00_scope R11, R12). -/

namespace Sys2Proof.Machine

/-! ## From reals to integers -/

/-- `m` units of `2^-(149 + x)` are rounded as the real they stand for. -/
theorem roundReal_scaled (v : ℤ) (x : ℕ) :
    roundReal ((v : ℝ) / 2 ^ (149 + x)) = fpPack (decide (v < 0)) (roundBits v.natAbs x) := by
  have units : |(v : ℝ) / 2 ^ (149 + x)| * 2 ^ 149 = (v.natAbs : ℝ) / (2 ^ x : ℕ) := by
    rw [abs_div, abs_of_pos (show (0 : ℝ) < 2 ^ (149 + x) by positivity), Nat.cast_natAbs, Int.cast_abs, pow_add]
    push_cast
    field_simp
  have sign : (v : ℝ) / 2 ^ (149 + x) < 0 ↔ v < 0 := by
    rw [div_lt_iff₀ (by positivity), zero_mul, Int.cast_lt_zero]
  have place : realPlace ((v.natAbs : ℝ) / (2 ^ x : ℕ)) = Nat.log2 v.natAbs - x + 1 - 24 := by
    rw [realPlace, Nat.floor_div_eq_div, Nat.log2_eq_log_two, Nat.log_div_base_pow, ← Nat.log2_eq_log_two]
  have whole : max x (Nat.log2 v.natAbs + 1 - 24) = x + (Nat.log2 v.natAbs - x + 1 - 24) := by omega
  rw [roundReal_eq, units, realBits, realSignificand, place, Nat.cast_pow, Nat.cast_ofNat, div_div, ← pow_add,
    roundHalfEven_div, roundBits]
  simp only [sign, whole, Nat.add_sub_cancel_left]

/-- The distance in units of `2^-298` is the distance of the reals. -/
theorem cast_fpDistance (w : Word) (v : ℤ) : (fpDistance w v : ℝ) = |fpReal w - (v : ℝ) / 2 ^ 298| * 2 ^ 298 := by
  have units : fpReal w - (v : ℝ) / 2 ^ 298 = ((fpValue w * 2 ^ 149 - v : ℤ) : ℝ) / 2 ^ 298 := by
    rw [fpReal, show (2 : ℝ) ^ 298 = 2 ^ 149 * 2 ^ 149 by rw [← pow_add]]
    push_cast
    field_simp
    norm_num
  have scale : (0 : ℝ) < 2 ^ 298 := by positivity
  rw [fpDistance, Nat.cast_natAbs, Int.cast_abs, units, abs_div, abs_of_pos scale, div_mul_cancel₀ _ scale.ne']

theorem roundsTo_of_roundsRealTo {v : ℤ} {w : Word} (rounds : RoundsRealTo ((v : ℝ) / 2 ^ 298) w) : RoundsTo v w := by
  obtain ⟨_, overflow, nearest⟩ := rounds
  have threshold : (2 ^ 25 - 1) * 2 ^ (103 + 298) ≤ v.natAbs ↔ (2 : ℝ) ^ 128 - 2 ^ 103 ≤ |(v : ℝ) / 2 ^ 298| := by
    rw [pow_add, ← mul_assoc, abs_div, abs_of_pos (show (0 : ℝ) < 2 ^ 298 by positivity),
      le_div_iff₀ (by positivity), ← Int.cast_abs, Int.abs_eq_natAbs, Int.cast_natCast, ← Nat.cast_le (α := ℝ)]
    norm_num
  have scale : (0 : ℝ) < 2 ^ 298 := by positivity
  refine ⟨fun large => overflow (threshold.mp large), fun small => ?_⟩
  obtain ⟨finite, near⟩ := nearest (lt_of_not_ge (mt threshold.mpr (not_le.mpr small)))
  refine ⟨finite, fun w' finite' => ?_⟩
  obtain ⟨le, tie⟩ := near w' finite'
  rw [← Nat.cast_le (α := ℝ), ← Nat.cast_inj (R := ℝ), cast_fpDistance, cast_fpDistance, mul_le_mul_iff_left₀ scale,
    mul_left_inj' scale.ne']
  exact ⟨le, tie⟩

/-- One rounding of an exact integer count of units of `2^-(149 + x)`. -/
theorem roundsTo_fpPack_roundBits (v : ℤ) {x y : ℕ} (units : x + y = 149) :
    RoundsTo (v * 2 ^ y) (fpPack (decide (v < 0)) (roundBits v.natAbs x)) := by
  rw [← roundReal_scaled]
  refine roundsTo_of_roundsRealTo ?_
  have same : ((v * 2 ^ y : ℤ) : ℝ) / 2 ^ 298 = (v : ℝ) / 2 ^ (149 + x) := by
    rw [show 298 = 149 + x + y by omega, pow_add _ (149 + x)]
    push_cast
    field_simp
  rw [same]
  exact roundsRealTo_roundReal _

/-- A zero of either sign is the rounding of an exact zero. -/
theorem roundsTo_fpZero (neg : Bool) : RoundsTo 0 (fpZero neg) := by
  have zero : fpValue (fpZero neg) = 0 := by cases neg <;> decide
  have finite : fpIsFinite (fpZero neg) = true := by cases neg <;> decide
  have positive : (2 ^ 25 - 1) * 2 ^ (103 + 298) ≠ 0 := Nat.mul_ne_zero (by decide) (by positivity)
  refine ⟨fun large => absurd (Nat.le_zero.mp large) positive, fun _ => ⟨finite, fun w _ => ?_⟩⟩
  have exact : fpDistance (fpZero neg) 0 = 0 := by rw [fpDistance, zero]; rfl
  rw [exact, zero, fpDistance]
  exact ⟨Nat.zero_le _, fun tie ne => by omega⟩

/-- One rounding of a magnitude with its sign, a zero included. -/
theorem roundsTo_signed (neg : Bool) (m : ℕ) :
    RoundsTo (if neg then -(m : ℤ) else m) (fpPack neg (roundBits m 149)) := by
  rcases m.eq_zero_or_pos with rfl | pos
  · rw [Nat.cast_zero, neg_zero, ite_self]
    exact roundsTo_fpZero neg
  · have rounds := roundsTo_fpPack_roundBits (if neg then -(m : ℤ) else m) (x := 149) (y := 0) rfl
    have sign : decide ((if neg then -(m : ℤ) else m) < 0) = neg := by cases neg <;> simp [pos]
    have size : (if neg then -(m : ℤ) else m).natAbs = m := by cases neg <;> simp
    rwa [sign, size, pow_zero, mul_one] at rounds

/-! ## Packed words and their classes -/

theorem fpPack_fields (w : Word) : fpPack (fpSign w) (fpExp w * 2 ^ 23 + fpFrac w) = w := by
  have bits : fpExp w * 2 ^ 23 + fpFrac w = w.toNat % 2 ^ 31 := by
    unfold fpExp fpFrac
    omega
  refine BitVec.eq_of_toNat_eq ?_
  rw [bits, toNat_fpPack _ (Nat.mod_lt _ (by norm_num)), fpSign, BitVec.msb_eq_decide]
  have := w.isLt
  split
  · next high => have := of_decide_eq_true high; omega
  · next low => have := of_decide_eq_false (Bool.eq_false_iff.mpr low); omega

theorem roundBits_le (m x : ℕ) : roundBits m x ≤ 0x7F800000 := Nat.min_le_right ..

theorem fpIsNaN_fpPack {bits : ℕ} (neg : Bool) (le : bits ≤ 0x7F800000) : fpIsNaN (fpPack neg bits) = false := by
  rw [fpIsNaN, fpExp_fpPack neg (by omega), fpFrac_fpPack neg (by omega), Bool.and_eq_false_imp]
  intro infinite
  have := beq_iff_eq.mp infinite
  simp
  omega

section
variable {w : Word}

/-- The three classes of words exclude each other. -/
theorem fpIsNaN_of_isInf (infinite : fpIsInf w = true) : fpIsNaN w = false := by
  simp_all [fpIsInf, fpIsNaN]

theorem special_of_isFinite (finite : fpIsFinite w = true) : fpIsNaN w = false ∧ fpIsInf w = false := by
  simp_all [fpIsFinite, fpIsInf, fpIsNaN]

theorem fpIsZero_of_isInf (infinite : fpIsInf w = true) : fpIsZero w = false := by
  simp_all [fpIsInf, fpIsZero]

theorem eq_fpInf_of_isInf (infinite : fpIsInf w = true) : w = fpInf (fpSign w) := by
  rw [fpIsInf, Bool.and_eq_true, beq_iff_eq, beq_iff_eq] at infinite
  conv_lhs => rw [← fpPack_fields w, infinite.1, infinite.2]
  rfl

end

/-! ## Negation -/

@[simp] theorem fpExp_fneg (w : Word) : fpExp (fneg w) = fpExp w := by
  have none : (0x80000000#32).extractLsb' 23 8 = 0#8 := by decide
  rw [fpExp_eq_extractLsb', fpExp_eq_extractLsb', fneg, BitVec.extractLsb'_xor, none, BitVec.xor_zero]

@[simp] theorem fpFrac_fneg (w : Word) : fpFrac (fneg w) = fpFrac w := by
  have none : (0x80000000#32).extractLsb' 0 23 = 0#23 := by decide
  rw [fpFrac_eq_extractLsb', fpFrac_eq_extractLsb', fneg, BitVec.extractLsb'_xor, none, BitVec.xor_zero]

@[simp] theorem fpSign_fneg (w : Word) : fpSign (fneg w) = !fpSign w := by
  have top : (0x80000000#32).msb = true := by decide
  rw [fpSign, fneg, BitVec.msb_xor, top, Bool.xor_true, fpSign]

@[simp] theorem fpIsNaN_fneg (w : Word) : fpIsNaN (fneg w) = fpIsNaN w := by simp [fpIsNaN]

@[simp] theorem fpIsInf_fneg (w : Word) : fpIsInf (fneg w) = fpIsInf w := by simp [fpIsInf]

@[simp] theorem fpIsFinite_fneg (w : Word) : fpIsFinite (fneg w) = fpIsFinite w := by simp [fpIsFinite]

@[simp] theorem fpValue_fneg (w : Word) : fpValue (fneg w) = -fpValue w := by
  have magnitude : fpMagnitude (fneg w) = fpMagnitude w := by simp [fpMagnitude]
  rw [fpValue, fpSign_fneg, magnitude, fpValue]
  cases fpSign w <;> simp

/-! ## Finite operands -/

section
variable {a b : Word}

theorem fadd_of_finite (ha : fpIsFinite a = true) (hb : fpIsFinite b = true) : fadd a b = faddFinite a b := by
  simp [fadd, special_of_isFinite ha, special_of_isFinite hb]

theorem fpIsNaN_faddFinite (a b : Word) : fpIsNaN (faddFinite a b) = false := by
  unfold faddFinite
  dsimp only
  split
  · exact fpIsNaN_fpPack _ (Nat.zero_le _)
  · exact fpIsNaN_fpPack _ (roundBits_le _ _)

theorem fadd_correct (ha : fpIsFinite a = true) (hb : fpIsFinite b = true) :
    let v := fpValue a + fpValue b
    RoundsTo (v * 2 ^ 149) (fadd a b) ∧ fpIsNaN (fadd a b) = false ∧
      (v ≠ 0 → fpSign (fadd a b) = decide (v < 0)) ∧ (v = 0 → fpSign (fadd a b) = (fpSign a && fpSign b)) := by
  intro v
  have noNaN := fpIsNaN_faddFinite a b
  rw [fadd_of_finite ha hb]
  by_cases zero : v = 0
  · have sum : faddFinite a b = fpZero (fpSign a && fpSign b) := if_pos zero
    rw [sum, zero, Int.zero_mul]
    exact ⟨roundsTo_fpZero _, sum ▸ noNaN, fun ne => absurd rfl ne, fun _ => fpSign_fpPack _ (by norm_num)⟩
  · have sum : faddFinite a b = fpPack (decide (v < 0)) (roundBits v.natAbs 0) := if_neg zero
    have sign : fpSign (faddFinite a b) = decide (v < 0) := by
      rw [sum, fpSign_fpPack _ ((roundBits_le _ _).trans_lt (by norm_num))]
    exact ⟨sum ▸ roundsTo_fpPack_roundBits v (Nat.zero_add _), noNaN, fun _ => sign, fun eq => absurd eq zero⟩

end

/-- Settles O48: the sum is `roundReal` of the exact sum, and the difference is the sum with the negated operand. -/
theorem addAndSubRoundToNearestEven : Obligations.AddAndSubRoundToNearestEven := by
  intro a b ha hb v
  obtain ⟨rounds, noNaN, sign, zeroSign⟩ := fadd_correct ha hb
  have difference := fadd_correct (b := fneg b) ha (by rwa [fpIsFinite_fneg])
  rw [fpValue_fneg, ← Int.sub_eq_add_neg, fpSign_fneg] at difference
  exact ⟨rounds, noNaN, sign, zeroSign, difference⟩

theorem fpValue_eq (w : Word) : fpValue w = if fpSign w then -(fpMagnitude w : ℤ) else fpMagnitude w := rfl

/-- The product of the magnitudes with the exclusive or of the signs. -/
theorem fpValue_mul (a b : Word) :
    fpValue a * fpValue b =
      if fpSign a != fpSign b then -((fpMagnitude a * fpMagnitude b : ℕ) : ℤ) else (fpMagnitude a * fpMagnitude b : ℕ) := by
  rw [fpValue_eq, fpValue_eq]
  cases fpSign a <;> cases fpSign b <;> simp

/-- Settles O49: the product of the magnitudes is rounded once, under the exclusive or of the signs. -/
theorem mulRoundsToNearestEven : Obligations.MulRoundsToNearestEven := by
  intro a b ha hb
  have product := fmul_of_finite ha hb
  have within := roundBits_le (fpMagnitude a * fpMagnitude b) 149
  refine ⟨?_, product ▸ fpIsNaN_fpPack _ within, product ▸ fpSign_fpPack _ (within.trans_lt (by norm_num))⟩
  rw [product, fpValue_mul]
  exact roundsTo_signed _ _

/-! ## Infinities and NaNs -/

section
variable {a b : Word}

theorem fadd_of_isNaN (nan : fpIsNaN a = true ∨ fpIsNaN b = true) : fadd a b = Config.nanResult := by
  rw [fadd, if_pos (by rwa [Bool.or_eq_true])]

theorem fmul_of_isNaN (nan : fpIsNaN a = true ∨ fpIsNaN b = true) : fmul a b = Config.nanResult := by
  rw [fmul]
  exact if_pos (by rwa [Bool.or_eq_true])

theorem fadd_inf_finite (infinite : fpIsInf a = true) (finite : fpIsFinite b = true) : fadd a b = a ∧ fadd b a = a := by
  simp [fadd, infinite, fpIsNaN_of_isInf infinite, special_of_isFinite finite]

theorem fadd_inf_inf (ha : fpIsInf a = true) (hb : fpIsInf b = true) :
    fadd a b = if fpSign a = fpSign b then a else Config.nanResult := by
  by_cases same : fpSign a = fpSign b <;> simp [fadd, ha, hb, fpIsNaN_of_isInf ha, fpIsNaN_of_isInf hb, same]

/-- A sum is `NAN_RESULT` or no NaN. -/
theorem fadd_nan (a b : Word) : fadd a b = Config.nanResult ∨ fpIsNaN (fadd a b) = false := by
  unfold fadd
  split
  · exact .inl rfl
  · split
    · next ha =>
      split
      · exact .inl rfl
      · exact .inr (fpIsNaN_of_isInf ha)
    · split
      · next hb => exact .inr (fpIsNaN_of_isInf hb)
      · exact .inr (fpIsNaN_faddFinite a b)

theorem fmul_nan (a b : Word) : fmul a b = Config.nanResult ∨ fpIsNaN (fmul a b) = false := by
  unfold fmul
  dsimp only
  split
  · exact .inl rfl
  · split
    · split
      · exact .inl rfl
      · exact .inr (fpIsNaN_of_isInf (fpIsInf_fpInf _))
    · exact .inr (fpIsNaN_fpPack _ (roundBits_le _ _))

theorem fmul_inf (infinite : fpIsInf a = true) (notNaN : fpIsNaN b = false) :
    let product := if fpIsZero b = true then Config.nanResult else fpInf (fpSign a != fpSign b)
    fmul a b = product ∧ fmul b a = product := by
  have swap : (fpSign b != fpSign a) = (fpSign a != fpSign b) := bne_comm
  simp [fmul, infinite, notNaN, fpIsNaN_of_isInf infinite, fpIsZero_of_isInf infinite, swap]

end

/-- Settles O50: each case is one branch of the operations, a difference being a sum with the negated operand. -/
theorem nanResultsAndInfinities : Obligations.NanResultsAndInfinities := by
  intro a b
  have fsub_nan := fadd_nan a (fneg b)
  refine ⟨fun nan => (fadd_nan a b).resolve_right (by simp [nan]), fun nan => fsub_nan.resolve_right ?_,
    fun nan => (fmul_nan a b).resolve_right (by simp [nan]), fun nan => ⟨fadd_of_isNaN nan, ?_, fmul_of_isNaN nan⟩,
    fadd_inf_finite, fadd_inf_inf, fun infinite finite => ⟨?_, ?_⟩, fun ha hb => ?_, fmul_inf⟩
  · rw [show fpIsNaN (fadd a (fneg b)) = true from nan]
    exact nofun
  · exact fadd_of_isNaN (by rwa [fpIsNaN_fneg])
  · exact (fadd_inf_finite infinite (by rwa [fpIsFinite_fneg])).1
  · rw [fsub, (fadd_inf_finite (a := fneg a) (by rwa [fpIsInf_fneg]) finite).2,
      eq_fpInf_of_isInf (w := fneg a) (by rwa [fpIsInf_fneg]), fpSign_fneg]
  · rw [fsub, fadd_inf_inf ha (by rwa [fpIsInf_fneg]), fpSign_fneg]
    cases fpSign a <;> cases fpSign b <;> rfl

end Sys2Proof.Machine

/-! A flush over a history of zeros (41_streaming R101, 43_fft_port R119 P3). -/

namespace Sys2Proof.Machine

/-! ## Zeros under the binary32 operations -/

section
variable {a b : Word}

theorem fpIsZero_iff_magnitude : fpIsZero a = true ↔ fpMagnitude a = 0 := by
  rw [fpIsZero, Bool.and_eq_true, beq_iff_eq, beq_iff_eq, fpMagnitude]
  split
  · next subnormal => rw [and_iff_right subnormal]
  · next normal => exact iff_of_false (fun h => normal h.1) (by positivity)

theorem fpIsFinite_of_isZero (zero : fpIsZero a = true) : fpIsFinite a = true := by
  simp_all [fpIsZero, fpIsFinite]

theorem fpMagnitude_of_isZero (zero : fpIsZero a = true) : fpMagnitude a = 0 :=
  fpIsZero_iff_magnitude.mp zero

theorem fpIsZero_fpZero (neg : Bool) : fpIsZero (fpZero neg) = true := by cases neg <;> decide

theorem fpIsZero_plusZero : fpIsZero plusZero = true := by decide

theorem fpIsZero_fadd (ha : fpIsZero a = true) (hb : fpIsZero b = true) : fpIsZero (fadd a b) = true := by
  have value : fpValue a + fpValue b = 0 := by
    simp [fpValue_eq, fpMagnitude_of_isZero ha, fpMagnitude_of_isZero hb]
  rw [fadd_of_finite (fpIsFinite_of_isZero ha) (fpIsFinite_of_isZero hb), faddFinite, if_pos value]
  exact fpIsZero_fpZero _

theorem fpIsZero_fsub (ha : fpIsZero a = true) (hb : fpIsZero b = true) : fpIsZero (fsub a b) = true :=
  fpIsZero_fadd ha (by rwa [fpIsZero, fpExp_fneg, fpFrac_fneg])

theorem fpIsZero_fmul (ha : fpIsFinite a = true) (hb : fpIsFinite b = true)
    (zero : fpIsZero a = true ∨ fpIsZero b = true) : fpIsZero (fmul a b) = true := by
  have product : fpMagnitude a * fpMagnitude b = 0 :=
    mul_eq_zero.mpr (zero.imp fpMagnitude_of_isZero fpMagnitude_of_isZero)
  rw [fmul_of_finite ha hb, product]
  exact fpIsZero_fpZero _

end

/-- The scale factor of every block length whose `2B` lies below `2^128` is finite. -/
theorem fpIsFinite_fpOfNat {m : ℕ} (small : m ≤ 2 ^ 127) : fpIsFinite (fpOfNat m) = true := by
  have word : roundReal m = fpOfNat m := by
    have rounded := roundReal_units (m * 2 ^ 149 : ℕ)
    rwa [Int.natAbs_natCast, decide_eq_false (not_lt.mpr (Int.natCast_nonneg _)), Int.cast_natCast, Nat.cast_mul,
      Nat.cast_pow, Nat.cast_ofNat, mul_div_cancel_right₀ _ (by positivity)] at rounded
  have below : |(m : ℝ)| < 2 ^ 128 - 2 ^ 103 := by
    have le : (m : ℝ) ≤ 2 ^ 127 := by exact_mod_cast small
    rw [Nat.abs_cast]
    exact le.trans_lt (by norm_num)
  obtain ⟨_, _, inRange⟩ := roundsRealTo_roundReal m
  rw [← word]
  exact (inRange below).1

/-! ## The phases of the flush -/

/-- A block of zeros in a memory. -/
def ZeroWords (D : Datapath Word) (sel : MemSel) (m : Memory Word) (len : ℕ) : Prop :=
  ∀ i, i < len → fpIsZero (D.word sel m i) = true

section
variable {resets : ℕ} {e : Engine Word}

theorem zeros_of_words {D : Datapath Word} {sel : MemSel} {m : Memory Word} {base len : ℕ}
    (zeros : ∀ k, k < len → fpIsZero (D.word sel m (base + k)) = true) :
    ∀ w ∈ D.words sel m base len, fpIsZero w = true := by
  intro w mem
  obtain ⟨k, hk, rfl⟩ := List.mem_map.mp mem
  exact zeros k (List.mem_range.mp hk)

/-- The transform of the padded block turns zeros to zeros (43_fft_port R119 P3), and the other slots stay. -/
theorem flushTransform_zero_hist (slot : e.hcur < e.nb)
    (zeros : ∀ i, i < e.nb * (2 * e.b) → ¬(e.hcur * (2 * e.b) + e.b ≤ i ∧ i < (e.hcur + 1) * (2 * e.b)) →
      fpIsZero ((blockDatapath resets).word .hist e.hist i) = true) :
    ZeroWords (blockDatapath resets) .hist (flushTransform (blockDatapath resets) e).hist (e.nb * (2 * e.b)) := by
  intro i hi
  have fwdLength := (blockDatapath_keepsLength resets (2 * e.b)).1
  have within := slot_within (2 * e.b) slot
  rw [← blockFlush_hist]
  by_cases outside : i < e.hcur * (2 * e.b) ∨ (e.hcur + 1) * (2 * e.b) ≤ i
  · rw [Datapath.word_congr _ _ (read?_blockFlush_hist_outside _ e fwdLength outside)]
    exact zeros i hi (by omega)
  · rw [slot_end] at outside zeros
    obtain ⟨k, rfl⟩ : ∃ k, i = e.hcur * (2 * e.b) + k := ⟨i - e.hcur * (2 * e.b), by omega⟩
    rw [← Datapath.words_getD _ _ _ _ (len := 2 * e.b) (by omega) plusZero,
      words_blockFlush_hist _ e fwdLength]
    have block : ∀ w ∈ (blockDatapath resets).words .hist e.hist (e.hcur * (2 * e.b)) e.b ++
        (blockDatapath resets).zeros e.b, fpIsZero w = true := by
      intro w mem
      rcases List.mem_append.mp mem with stored | padding
      · exact zeros_of_words (fun k hk => zeros _ (by omega) (by omega)) w stored
      · rw [List.eq_of_mem_replicate padding]
        exact fpIsZero_plusZero
    have response := zerosToZeros_meetsP3 Config.fwdWord _ block
    refine response _ ?_
    rw [List.getD_eq_getElem _ _ (by rw [fwdLength _ (by simp [Nat.two_mul])]; omega)]
    exact List.getElem_mem _

/-- A word of `PMAC` over a history of zeros and a finite spectrum stays a zero. -/
theorem fpIsZero_pmacWord {b k : ℕ} {h x : ℕ → Word} {old : Word} (scale : fpIsFinite (fpOfNat (2 * b)) = true)
    (hk : k < 2 * b) (finite : ∀ i, i < 2 * b → fpIsFinite (h i) = true)
    (zeros : ∀ i, i < 2 * b → fpIsZero (x i) = true) (oldZero : fpIsZero old = true) :
    fpIsZero (pmacWord (blockDatapath resets) b h x old k) = true := by
  have product {i j : ℕ} (hi : i < 2 * b) (hj : j < 2 * b) : fpIsZero (fmul (h i) (x j)) = true :=
    fpIsZero_fmul (finite i hi) (fpIsFinite_of_isZero (zeros j hj)) (.inr (zeros j hj))
  have scaled {p : Word} (zero : fpIsZero p = true) : fpIsZero (fadd old (fmul p (fpOfNat (2 * b)))) = true :=
    fpIsZero_fadd oldZero (fpIsZero_fmul (fpIsFinite_of_isZero zero) scale (.inl zero))
  rcases Nat.lt_trichotomy k b with low | rfl | high
  · rcases Nat.eq_zero_or_pos k with rfl | pos
    · rw [pmacWord_real _ h x old (.inl rfl)]
      exact scaled (product hk hk)
    · rw [pmacWord_low _ h x old pos low]
      exact scaled (fpIsZero_fsub (product hk hk) (product (by omega) (by omega)))
  · rw [pmacWord_real _ h x old (.inr rfl)]
    exact scaled (product hk hk)
  · rw [pmacWord_high _ h x old (by omega) high]
    exact scaled (fpIsZero_fadd (product (by omega) hk) (product hk (by omega)))

/-- What the calls of a flush read and keep: spectra, a history of zeros, and an accumulator of zeros. -/
structure ZeroAccumulation (resets : ℕ) (e : Engine Word) : Prop where
  scale : fpIsFinite (fpOfNat (2 * e.b)) = true
  spectra : ∀ i, i < e.nb * (2 * e.b) → fpIsFinite ((blockDatapath resets).word .irspec e.irspec i) = true
  history : ZeroWords (blockDatapath resets) .hist e.hist (e.nb * (2 * e.b))
  accumulator : ZeroWords (blockDatapath resets) .acc e.acc (2 * e.b)

theorem ZeroAccumulation.pmac (zero : ZeroAccumulation resets e) {j s : ℕ} (block : j < e.nb) (slot : s < e.nb) :
    ZeroAccumulation resets (pmac (blockDatapath resets) e j s) := by
  refine ⟨zero.scale, zero.spectra, zero.history, fun k hk => ?_⟩
  have hk : k < 2 * e.b := hk
  have blockWithin := slot_within (2 * e.b) block
  have slotWithin := slot_within (2 * e.b) slot
  rw [Datapath.word_of_read? _ _ _ _ _ (read?_pmac_acc _ e j s hk)]
  exact fpIsZero_pmacWord zero.scale hk (fun i hi => zero.spectra _ (by omega)) (fun i hi => zero.history _ (by omega))
    (zero.accumulator k hk)

theorem ZeroAccumulation.flushAccumulate (zero : ZeroAccumulation resets e) (slot : e.hcur < e.nb) :
    ZeroAccumulation resets (flushAccumulate (blockDatapath resets) e) := by
  have step : ∀ f, (ZeroAccumulation resets f ∧ f.nb = e.nb) → ∀ j ∈ List.range e.nb,
      ZeroAccumulation resets (Machine.pmac (blockDatapath resets) f j (pastSlot e.hcur e.nb j)) ∧ f.nb = e.nb := by
    rintro f ⟨zero, nb⟩ j mem
    have block := List.mem_range.mp mem
    have inRing := (pastSlotIsJRoundsBack e.hcur e.nb j slot).1
    rw [← nb] at block
    exact ⟨zero.pmac block (by rwa [nb]), nb⟩
  exact (List.foldlRecOn (motive := fun f => ZeroAccumulation resets f ∧ f.nb = e.nb) _ _ ⟨zero, rfl⟩ step).1

theorem flushSave_zero_acc (e : Engine Word) :
    ZeroWords (blockDatapath resets) .acc (flushSave (blockDatapath resets) e).acc (2 * e.b) := by
  intro i hi
  rw [show (blockDatapath resets).word .acc (flushSave (blockDatapath resets) e).acc i = plusZero from
    word_writeAll_zeros _ .acc e.acc hi]
  exact fpIsZero_plusZero

end

/-- Settles O56: zeros go through the forward transform, the products with finite spectra and the inverse transform; the
overlap-add then adds the residue to zeros. -/
theorem zeroHistoryGivesZeroOutputs : Obligations.ZeroHistoryGivesZeroOutputs := by
  intro e resets D f pos bound slot zeros finite
  have invLength := (blockDatapath_keepsLength resets (2 * e.b)).2
  have saved : ZeroAccumulation resets (flushSave D (flushTransform D e)) :=
    ⟨fpIsFinite_fpOfNat (show 2 * e.b ≤ 2 ^ 127 by omega), finite, flushTransform_zero_hist slot zeros, flushSave_zero_acc _⟩
  have accumulated : ZeroAccumulation resets (flushAccumulated D e) := saved.flushAccumulate slot
  have spectrum : ∀ w ∈ flushSpectrum D e, fpIsZero w = true :=
    zeros_of_words fun k hk => by
      rw [Nat.zero_add]
      exact accumulated.accumulator k (by rwa [flushAccumulated_b])
  have response : ∀ k, k < 2 * e.b → ∃ v, (D.inv (flushSpectrum D e))[k]? = some v ∧ fpIsZero v = true := by
    intro k hk
    rw [← invLength _ (flushSpectrum_length D e)] at hk
    exact ⟨_, List.getElem?_eq_getElem hk, zerosToZeros_meetsP3 Config.invWord _ spectrum _ (List.getElem_mem hk)⟩
  refine ⟨fun k hk => ?_, fun k hk residue => ?_⟩
  · obtain ⟨v, inverse, zero⟩ := response (e.b + k) (by omega)
    rw [D.word_of_read? _ _ _ _ (read?_blockFlush_acc D e invLength inverse), if_neg (by omega)]
    exact zero
  · obtain ⟨v, inverse, zero⟩ := response k (by omega)
    rw [D.word_of_read? _ _ _ _ (read?_blockFlush_acc D e invLength inverse), if_pos hk]
    exact fpIsZero_fadd zero residue

end Sys2Proof.Machine

/-! The tail of the convolution in exact arithmetic (41_streaming R101). -/

namespace Sys2Proof.Machine

variable {R : Type} [CommRing R]

/-- Zeros behind the input change no output of the convolution. -/
theorem linconv_append_zeros (h x : List R) (zeros t : ℕ) :
    linconv h (x ++ List.replicate zeros 0) t = linconv h x t := by
  have same (i : ℕ) : (x ++ List.replicate zeros (0 : R)).getD i 0 = x.getD i 0 := by
    rcases Nat.lt_or_ge i x.length with inside | beyond
    · rw [List.getD_append _ _ _ _ inside]
    · rw [List.getD_append_right _ _ _ _ beyond, List.getD_eq_default x _ beyond]
      simp [List.getD, List.getElem?_replicate]
      split <;> rfl
  simp only [linconv, same]

/-- The convolution ends `N - 1` samples after its input. -/
theorem linconv_of_ended (h x : List R) {t : ℕ} (ended : x.length + (h.length - 1) ≤ t) : linconv h x t = 0 := by
  rw [linconv, sum_map_range]
  refine Finset.sum_eq_zero fun j hj => ?_
  have := Finset.mem_range.mp hj
  split
  · rw [List.getD_eq_default x _ (by omega), mul_zero]
  · rfl

/-- Settles O58: the exact output law of the input with the zeros behind it. -/
theorem exactTailEnds : Obligations.ExactTailEnds := by
  intro fwd inv unwritten e h x zeros hb hn hpos hnb contract D start y t _ upTo
  have output := exactOutputLaw fwd inv unwritten e h (x ++ List.replicate zeros 0) hb hn hpos hnb contract t
    (by simpa using upTo)
  rw [linconv_append_zeros] at output
  refine ⟨fun _ => output, fun ended => ?_⟩
  refine output.trans (congrArg some ?_)
  rw [if_neg (by omega)]
  exact linconv_of_ended h x (by omega)

end Sys2Proof.Machine

/-! The host's procedures (30_encoding R74, 41_streaming R98, R99): what `POLL`, `PUSH`, `PROCESS`, `FLUSH` and the boot
sequence leave and return. -/

namespace Sys2Proof.Machine

theorem issue_of_exec {i : Instr} {s t : State} (ran : exec i s = .next t) : issue i s = t := by rw [issue, ran]

/-! ## `POLL` -/

/-- The state in which `POLL` sees the block idle: a busy engine has taken its step (log entry 8). -/
def State.settled (s : State) : State := if s.busy then s.engineStep else s

theorem poll_eq (s : State) : poll s = s.settled.respond s.settled.statusWord := rfl

theorem State.settled_of_busy {s : State} (busy : s.busy = true) : s.settled = s.engineStep := if_pos busy

theorem State.settled_of_idle {s : State} (idle : s.busy = false) : s.settled = s := by
  rw [State.settled, idle, if_neg Bool.false_ne_true]

theorem State.settled_idle (s : State) : s.settled.busy = false := by
  cases busy : s.busy with
  | true => rw [State.settled_of_busy busy, State.not_busy_of_ready (State.engineStep_phase busy)]
  | false => rw [State.settled_of_idle busy, busy]

/-- An engine step leaves the requested configuration. -/
theorem State.settled_config (s : State) : s.settled.cfgB = s.cfgB ∧ s.settled.cfgN = s.cfgN := by
  cases busy : s.busy with
  | true => rw [State.settled_of_busy busy, State.engineStep_busy busy]; exact ⟨rfl, rfl⟩
  | false => rw [State.settled_of_idle busy]; exact ⟨rfl, rfl⟩

theorem State.settled_ready {s : State} (initialized : s.phase ≠ .uninit) : s.settled.phase = .ready := by
  cases busy : s.busy with
  | true => rw [State.settled_of_busy busy, State.engineStep_phase busy]
  | false =>
    rw [State.settled_of_idle busy]
    exact (s.idle_iff.mp busy).resolve_left initialized

/-- `POLL` reads `STATUS` anew, so the read data before it do not matter. -/
theorem poll_respond (s : State) (w : Word) : poll (s.respond w) = poll s := by
  have settled : (s.respond w).settled = s.settled.respond w := by
    cases busy : s.busy with
    | true =>
      rw [State.settled_of_busy (s := s.respond w) busy, State.settled_of_busy busy,
        State.engineStep_busy (s := s.respond w) busy, State.engineStep_busy busy]
      rfl
    | false => rw [State.settled_of_idle (s := s.respond w) busy, State.settled_of_idle busy]
  rw [poll_eq, settled]
  rfl

/-! ## `PUSH` -/

/-- `PUSH` of an initialized block: after `POLL` the push is accepted, and the sample read is its output. -/
theorem pushSample_eq (x : Word) {s : State} (initialized : s.phase ≠ .uninit) :
    let q := poll s
    let y := pushOutput (blockDatapath q.resets) q.toEngine
    pushSample x s = (y, { q with
      rdata := some y, hist := Memory.write q.hist (q.hcur * (2 * q.b) + q.iib) x, iib := q.iib + 1, dout := y
      doutValid := false, overrun := q.overrun || q.doutValid
      phase := if q.iib + 1 = q.b then .blockBusy else .ready, lastErr := .ok, errCause := .none }) := by
  intro q y
  have ready : q.phase = .ready := State.settled_ready initialized
  rw [pushSample, issue_of_exec (exec_wrDin_of_ready x ready)]
  rfl

theorem pushSample_initialized (x : Word) {s : State} (initialized : s.phase ≠ .uninit) :
    (pushSample x s).2.phase ≠ .uninit := by
  rw [pushSample_eq x initialized]
  dsimp only
  split <;> nofun

theorem pushSample_respond (x : Word) (s : State) (w : Word) : pushSample x (s.respond w) = pushSample x s := by
  rw [pushSample, poll_respond, pushSample]

/-- Settles O53: `POLL` leaves `READY`, where a push is accepted; `DOUT` then holds its output. -/
theorem polledPushIsAccepted : Obligations.PolledPushIsAccepted := by
  intro s x initialized q r
  have ready : q.phase = .ready := State.settled_ready initialized
  rw [show r = _ from pushSample_eq x initialized]
  exact ⟨ready, rfl, rfl, rfl, fun v written => pushOutput_of_written _ written⟩

/-! ## `PROCESS` -/

theorem pushSamples_length (xs : List Word) (s : State) : (pushSamples xs s).1.length = xs.length := by
  induction xs generalizing s with
  | nil => rfl
  | cons x xs ih => rw [pushSamples, List.length_cons, ih, List.length_cons]

theorem pushSamples_append (xs ys : List Word) (s : State) :
    pushSamples (xs ++ ys) s =
      ((pushSamples xs s).1 ++ (pushSamples ys (pushSamples xs s).2).1, (pushSamples ys (pushSamples xs s).2).2) := by
  induction xs generalizing s with
  | nil => rfl
  | cons x xs ih => rw [List.cons_append, pushSamples, ih, pushSamples, List.cons_append]

theorem pushSamples_initialized (xs : List Word) {s : State} (initialized : s.phase ≠ .uninit) :
    (pushSamples xs s).2.phase ≠ .uninit := by
  induction xs generalizing s with
  | nil => exact initialized
  | cons x xs ih => exact ih (pushSample_initialized x initialized)

/-- The read data before the loop reach no output and no state but the read data after an empty loop. -/
theorem pushSamples_respond (xs : List Word) (s : State) (w : Word) :
    (pushSamples xs (s.respond w)).1 = (pushSamples xs s).1 ∧
      { (pushSamples xs (s.respond w)).2 with rdata := none } = { (pushSamples xs s).2 with rdata := none } := by
  cases xs with
  | nil => exact ⟨rfl, rfl⟩
  | cons x xs => rw [pushSamples, pushSample_respond, pushSamples]; exact ⟨rfl, rfl⟩

theorem process_of_negative {n : Int} (x : Nat → Word) (s : State) (negative : n < 0) :
    process n x s = (.invalidArg, [], s) := if_pos negative

theorem process_of_uninit {n : Int} (x : Nat → Word) {s : State} (length : 0 ≤ n) (uninit : s.phase = .uninit) :
    process n x s = (.notInit, [], s.respond s.statusWord) :=
  (if_neg (not_lt.mpr length)).trans (if_pos uninit)

theorem process_of_initialized {n : Int} (x : Nat → Word) {s : State} (length : 0 ≤ n)
    (initialized : s.phase ≠ .uninit) :
    process n x s = (.ok, pushSamples ((List.range n.toNat).map x) (s.respond s.statusWord)) :=
  (if_neg (not_lt.mpr length)).trans (if_neg initialized)

/-- Settles O54: the loops append, and the `STATUS` read between two calls leaves nothing but read data. -/
theorem chunkingDoesNotMatter : Obligations.ChunkingDoesNotMatter := by
  intro n1 n2 x s first second whole
  by_cases uninit : s.phase = .uninit
  · have start : first = (.notInit, [], s.respond s.statusWord) := process_of_uninit x (Int.natCast_nonneg _) uninit
    have all : whole = (.notInit, [], s.respond s.statusWord) := process_of_uninit x (Int.natCast_nonneg _) uninit
    have rest : second = (.notInit, [], (s.respond s.statusWord).respond (s.respond s.statusWord).statusWord) := by
      unfold second
      rw [start]
      exact process_of_uninit _ (Int.natCast_nonneg _) uninit
    rw [start, rest, all]
    exact ⟨rfl, rfl, rfl⟩
  · have start : first = (.ok, pushSamples ((List.range n1).map x) (s.respond s.statusWord)) :=
      process_of_initialized x (Int.natCast_nonneg _) uninit
    have between : first.2.2.phase ≠ .uninit := by
      rw [start]
      exact pushSamples_initialized _ uninit
    have rest : second = (.ok, pushSamples ((List.range n2).map fun i => x (n1 + i))
        (first.2.2.respond first.2.2.statusWord)) := process_of_initialized _ (Int.natCast_nonneg _) between
    have all : whole = (.ok, first.2.1 ++ (pushSamples ((List.range n2).map fun i => x (n1 + i)) first.2.2).1,
        (pushSamples ((List.range n2).map fun i => x (n1 + i)) first.2.2).2) := by
      have samples : (List.range (n1 + n2)).map x =
          (List.range n1).map x ++ (List.range n2).map fun i => x (n1 + i) := by
        rw [List.range_add, List.map_append, List.map_map]
        rfl
      rw [start]
      refine (process_of_initialized x (Int.natCast_nonneg _) uninit).trans ?_
      rw [Int.toNat_natCast, samples, pushSamples_append]
    obtain ⟨outputs, state⟩ := pushSamples_respond ((List.range n2).map fun i => x (n1 + i)) first.2.2
      first.2.2.statusWord
    rw [rest, all]
    exact ⟨by rw [outputs], rfl, state.symm⟩

/-! ## `FLUSH` -/

theorem tail_eq (s : State) : tail s = (s.tailLen, s.respond s.tailLen) := rfl

/-- The tail of a running block fits its register and is no sentinel (00_scope R6). -/
theorem State.tailLen_of_running {s : State} (inv : s.Inv) (running : s.phase = .ready ∨ s.phase = .blockBusy) :
    s.tailLen.toNat = s.n - 1 + s.b ∧ s.tailLen ≠ tailSentinel := by
  have initialized : s.phase ≠ .uninit := by rcases running with h | h <;> rw [h] <;> nofun
  obtain ⟨_, _, bMax, nPos, nMax, _, _⟩ := inv.config.2 initialized
  have limit := nMax_add_bMax_lt
  have length : s.tailLen.toNat = s.n - 1 + s.b := by
    rw [State.tailLen, if_pos running, BitVec.toNat_ofInt]
    omega
  refine ⟨length, fun sentinel => ?_⟩
  rw [sentinel, show tailSentinel.toNat = 2 ^ 32 - 1 from rfl] at length
  omega

/-- Settles O55: each report is the procedure's own test, and the loop returns one output for each of the `TAIL_LEN`
zeros. -/
theorem flushReturnsTheTail : Obligations.FlushReturnsTheTail := by
  intro s
  refine ⟨fun n x => process_of_negative x s, fun n x => process_of_uninit x, fun notRunning => ?_,
    fun inv running => ?_⟩
  · have sentinel : s.tailLen = tailSentinel := by
      rw [State.tailLen, if_neg]
      rcases notRunning with h | h <;> simp [h]
    rw [flushTail, tail_eq]
    dsimp only
    rw [if_pos sentinel, sentinel]
    rfl
  · obtain ⟨length, notSentinel⟩ := State.tailLen_of_running inv running
    have initialized : s.phase ≠ .uninit := by rcases running with h | h <;> rw [h] <;> nofun
    have flushed : flushTail s = process (s.n - 1 + s.b : ℕ) (fun _ => plusZero) (s.respond s.tailLen) := by
      rw [flushTail, tail_eq]
      dsimp only
      rw [if_neg notSentinel, length]
    rw [flushed, process_of_initialized _ (Int.natCast_nonneg _) (by exact initialized), Int.toNat_natCast]
    exact ⟨rfl, by rw [pushSamples_length, List.length_map, List.length_range]⟩

/-! ## The boot sequence -/

/-- An idle block with a requested configuration and the first samples of an impulse response staged. -/
structure Staged (cfgB cfgN : Word) (h : List Word) (s : State) : Prop where
  idle : s.busy = false
  configB : s.cfgB = cfgB
  configN : s.cfgN = cfgN
  count : s.irWptr.toNat = h.length
  samples : ∀ i, i < h.length → Memory.read? s.irbuf i = h[i]?

section
variable {cfgB cfgN : Word}

theorem staged_irBegin {s : State} (configB : s.cfgB = cfgB) (configN : s.cfgN = cfgN) :
    Staged cfgB cfgN [] (issue (.irBegin 0#20 0#4) (poll s)) := by
  have idle : (poll s).busy = false := s.settled_idle
  obtain ⟨settledB, settledN⟩ := s.settled_config
  rw [issue_of_exec (exec_irBegin (poll s)), State.checkBusy_idle (poll s).written _ idle]
  exact ⟨idle, settledB.trans configB, settledN.trans configN, rfl, fun i hi => absurd hi (Nat.not_lt_zero i)⟩

theorem Staged.wrIrData {h : List Word} {s : State} (staged : Staged cfgB cfgN h s) (x : Word)
    (room : h.length < Config.nMax) : Staged cfgB cfgN (h ++ [x]) (issue (.wrIrData x) s) := by
  obtain ⟨idle, configB, configN, count, samples⟩ := staged
  have room : s.irWptr.toNat < Config.nMax := by rwa [count]
  have next := toNat_add_one_of_lt_nMax room
  rw [issue_of_exec (exec_wrIrData s x), State.checkBusy_idle s.written _ idle,
    State.appendIr_of_room (s := s.written) x room]
  refine ⟨idle, configB, configN, ?_, fun i hi => ?_⟩
  · rw [List.length_append, ← count]
    exact next
  · rw [List.length_append, List.length_singleton] at hi
    rw [State.succeed_irbuf]
    change Memory.read? (Memory.write s.irbuf s.irWptr.toNat x) i = _
    rw [Memory.read?_write, count]
    split
    · next last => rw [last, List.getElem?_concat_length]
    · next earlier => rw [samples i (by omega), List.getElem?_append_left (by omega)]

theorem Staged.wrIrDatas (xs : List Word) {h : List Word} {s : State} (staged : Staged cfgB cfgN h s)
    (room : h.length + xs.length ≤ Config.nMax) :
    Staged cfgB cfgN (h ++ xs) (xs.foldl (fun t x => issue (.wrIrData x) t) s) := by
  induction xs generalizing h s with
  | nil => rwa [List.append_nil]
  | cons x xs ih =>
    rw [List.length_cons] at room
    have rest := ih (staged.wrIrData x (by omega)) (by rw [List.length_append, List.length_singleton]; omega)
    rwa [List.append_assoc] at rest

/-- `LOADIR` (30_encoding R74). -/
theorem staged_loadIr {s : State} (configB : s.cfgB = cfgB) (configN : s.cfgN = cfgN) {h : List Word}
    (room : h.length ≤ Config.nMax) : Staged cfgB cfgN h (loadIr h s) :=
  (staged_irBegin configB configN).wrIrDatas h (by rwa [List.length_nil, Nat.zero_add])

end

theorem toInt_ofNat_of_lt {v : Nat} (small : v < 2 ^ 31) : (BitVec.ofNat 32 v).toInt = v := by
  have value : (BitVec.ofNat 32 v).toNat = v := by rw [BitVec.toNat_ofNat, Nat.mod_eq_of_lt (by omega)]
  rw [BitVec.toInt_eq_toNat_of_lt (by omega), value]

/-- `POLL` after an accepted `INIT` is the initialization sequence and one read. -/
theorem poll_of_initBusy {s : State} (initBusy : s.phase = .initBusy) :
    (poll s).phase = .ready ∧ (poll s).irbuf = s.irbuf ∧
      (poll s).toEngine = initSequence (blockDatapath s.resets) s.irSample s.toEngine := by
  have busy : s.busy = true := s.busy_iff.mpr (.inl initBusy)
  rw [poll_eq, State.settled_of_busy busy, State.engineStep_busy busy, if_pos initBusy]
  exact ⟨rfl, rfl, rfl⟩

theorem State.tailLen_of_ready {s : State} (ready : s.phase = .ready) (pos : 1 ≤ s.n) :
    s.tailLen = BitVec.ofNat 32 (s.n - 1 + s.b) := by
  have length : (s.n : Int) - 1 + s.b = (s.n - 1 + s.b : Nat) := by omega
  rw [State.tailLen, if_pos (.inl ready), length, BitVec.ofInt_natCast]

/-- Settles O52: the samples are staged with the configuration, so `INIT` accepts it, and the last `POLL` is the
initialization sequence. -/
theorem bootSequenceReachesReady : Obligations.BootSequenceReachesReady := by
  intro s b n h length pow2 bMax bSmall nPos nMax nSmall fits r
  let loaded := loadIr h (issue (.wrCfgN (BitVec.ofNat 32 n)) (issue (.wrCfgB (BitVec.ofNat 32 b)) s))
  obtain ⟨idle, configB, configN, count, samples⟩ : Staged (BitVec.ofNat 32 b) (BitVec.ofNat 32 n) h loaded :=
    staged_loadIr (s := issue (.wrCfgN _) (issue (.wrCfgB _) s)) rfl rfl (by rwa [length])
  rw [length] at count samples
  let initializing : State := { loaded with
    rdata := none, b := b, n := n, nb := (n - 1) / b + 1, iib := 0, hcur := 0, phase := .initBusy
    lastErr := .ok, errCause := .none }
  have accepted : issue (.init 0#20 1#4) loaded = initializing :=
    issue_of_exec (initLatchesAnAdmissibleConfiguration loaded b n idle (by rw [configB, toInt_ofNat_of_lt bSmall])
      (by rw [configN, toInt_ofNat_of_lt nSmall]) count pow2 bMax nPos nMax fits)
  have result : r = (.ok, poll (issue .rdStatus initializing)) := by
    change ((issue .rdStatus (issue (.init 0#20 1#4) loaded)).lastErr,
      poll (issue .rdStatus (issue (.init 0#20 1#4) loaded))) = _
    rw [accepted]
    rfl
  obtain ⟨ready, irbuf, engine⟩ := poll_of_initBusy (s := issue .rdStatus initializing) rfl
  obtain ⟨sameB, sameN, sameNb, iib, hcur, _, acc, _, _⟩ := initSequenceClearsAndTransforms Word
    (blockDatapath initializing.resets) initializing.irSample initializing.toEngine
    (blockDatapath_keepsLength initializing.resets (2 * b)).1
  have configuredN : (poll (issue .rdStatus initializing)).n = n := (congrArg Engine.n engine).trans sameN
  have configuredB : (poll (issue .rdStatus initializing)).b = b := (congrArg Engine.b engine).trans sameB
  rw [result]
  dsimp only
  refine ⟨rfl, ready, configuredB, configuredN, ?_, ?_, ?_, ?_, ?_, ?_⟩
  · rw [engine]; exact sameNb
  · rw [engine]; exact iib
  · rw [engine]; exact hcur
  · rw [State.tailLen_of_ready ready (by rwa [configuredN]), configuredN, configuredB]
  · rw [engine]; exact acc
  · rw [irbuf]; exact samples

end Sys2Proof.Machine

/-! The reference FFT over the real numbers (00_scope R14 to R16): its sums as powers of a root of unity, the spectrum of
a real vector, inversion and the convolution theorem. -/

namespace Sys2Proof.Machine

open Finset (sum_congr sum_add_distrib mul_sum sum_mul)

/-! ## Roots of unity -/

/-- `e^(2 pi i / l)`. -/
noncomputable def unitRoot (l : ℕ) : ℂ := Complex.exp (2 * Real.pi * Complex.I / l)

theorem exp_eq_unitRoot_pow (l k t : ℕ) :
    Complex.exp ((2 * Real.pi * Complex.I * k * t) / l) = unitRoot l ^ (k * t) := by
  rw [unitRoot, ← Complex.exp_nat_mul]
  congr 1
  push_cast
  ring

theorem dftBin_eq (v : List ℝ) (k : ℕ) :
    dftBin v k = ∑ t ∈ Finset.range v.length, ((v.getD t 0 : ℝ) : ℂ) * (unitRoot v.length)⁻¹ ^ (k * t) := by
  refine sum_congr rfl fun t _ => ?_
  rw [neg_div, Complex.exp_neg, exp_eq_unitRoot_pow, inv_pow]

theorem conj_unitRoot (l : ℕ) : (starRingEnd ℂ) (unitRoot l) = (unitRoot l)⁻¹ := by
  rw [unitRoot, ← Complex.exp_conj, ← Complex.exp_neg]
  congr 1
  simp [neg_div, map_ofNat]

section
variable {l : ℕ} (pos : 1 ≤ l)
include pos

theorem unitRoot_primitive : IsPrimitiveRoot (unitRoot l) l := Complex.isPrimitiveRoot_exp l (by omega)

theorem unitRoot_pow_self : unitRoot l ^ l = 1 := (unitRoot_primitive pos).pow_eq_one

theorem unitRoot_inv_pow_self : (unitRoot l)⁻¹ ^ l = 1 := by rw [inv_pow, unitRoot_pow_self pos, inv_one]

/-- Powers that differ by whole turns are equal. -/
theorem unitRoot_inv_pow_mod (k m : ℕ) : (unitRoot l)⁻¹ ^ (k * (m % l)) = (unitRoot l)⁻¹ ^ (k * m) := by
  conv_rhs => rw [← Nat.div_add_mod m l]
  rw [Nat.mul_add, pow_add, Nat.mul_left_comm, pow_mul _ l, unitRoot_inv_pow_self pos, one_pow, one_mul]

/-- The columns of the transform are orthogonal. -/
theorem sum_unitRoot {t m : ℕ} (ht : t < l) (hm : m < l) :
    ∑ k ∈ Finset.range l, (unitRoot l)⁻¹ ^ (k * m) * unitRoot l ^ (k * t) = if t = m then (l : ℂ) else 0 := by
  have nonzero : unitRoot l ≠ 0 := Complex.exp_ne_zero _
  have geometric : ∑ k ∈ Finset.range l, (unitRoot l)⁻¹ ^ (k * m) * unitRoot l ^ (k * t) =
      ∑ k ∈ Finset.range l, ((unitRoot l)⁻¹ ^ m * unitRoot l ^ t) ^ k := by
    refine sum_congr rfl fun k _ => ?_
    rw [mul_pow, ← pow_mul, ← pow_mul, Nat.mul_comm m, Nat.mul_comm t]
  rw [geometric]
  split
  · next same =>
    rw [same, inv_pow, inv_mul_cancel₀ (pow_ne_zero m nonzero)]
    simp
  · next ne =>
    have ratio : (unitRoot l)⁻¹ ^ m * unitRoot l ^ t ≠ 1 := by
      rw [inv_pow, Ne, inv_mul_eq_one₀ (pow_ne_zero m nonzero)]
      exact fun eq => ne ((unitRoot_primitive pos).pow_inj ht hm eq.symm)
    rw [geom_sum_eq ratio, mul_pow, ← pow_mul, ← pow_mul, Nat.mul_comm m, Nat.mul_comm t, pow_mul, pow_mul,
      unitRoot_inv_pow_self pos, unitRoot_pow_self pos, one_pow, one_pow, mul_one, sub_self, zero_div]

end

/-! ## The spectrum of a real vector -/

theorem conj_dftBin (v : List ℝ) (k : ℕ) :
    (starRingEnd ℂ) (dftBin v k) = ∑ t ∈ Finset.range v.length, ((v.getD t 0 : ℝ) : ℂ) * unitRoot v.length ^ (k * t) := by
  rw [dftBin_eq, map_sum]
  refine sum_congr rfl fun t _ => ?_
  rw [map_mul, Complex.conj_ofReal, map_pow, map_inv₀, conj_unitRoot, inv_inv]

/-- Bin `l - k` is the conjugate of bin `k` (00_scope R14). -/
theorem dftBin_mirror {v : List ℝ} {k : ℕ} (hk : k ≤ v.length) :
    dftBin v (v.length - k) = (starRingEnd ℂ) (dftBin v k) := by
  rw [conj_dftBin, dftBin_eq]
  refine sum_congr rfl fun t ht => ?_
  have pos : 1 ≤ v.length := Nat.one_le_of_lt (Finset.mem_range.mp ht)
  have turn : (unitRoot v.length)⁻¹ ^ ((v.length - k) * t) * (unitRoot v.length)⁻¹ ^ (k * t) = 1 := by
    rw [← pow_add, ← Nat.add_mul, Nat.sub_add_cancel hk, pow_mul, unitRoot_inv_pow_self pos, one_pow]
  rw [eq_inv_of_mul_eq_one_left turn, inv_pow, inv_inv]

theorem refSpectrum_mirror {v : List ℝ} {k : ℕ} (hk : k ≤ v.length) :
    refSpectrum v (v.length - k) = (starRingEnd ℂ) (refSpectrum v k) := by
  rw [refSpectrum, dftBin_mirror hk, refSpectrum, map_mul, map_div₀, map_one, Complex.conj_natCast]

/-- A bin that is its own mirror is real. -/
theorem refSpectrum_im_of_mirror {v : List ℝ} {k : ℕ} (hk : k ≤ v.length)
    (mirror : refSpectrum v (v.length - k) = refSpectrum v k) : (refSpectrum v k).im = 0 :=
  Complex.conj_eq_iff_im.mp ((refSpectrum_mirror hk).symm.trans mirror)

theorem refSpectrum_half_im {v : List ℝ} {b : ℕ} (length : v.length = 2 * b) : (refSpectrum v b).im = 0 :=
  refSpectrum_im_of_mirror (by omega) (by rw [show v.length - b = b by omega])

theorem refSpectrum_zero_im (v : List ℝ) : (refSpectrum v 0).im = 0 := by
  have real : dftBin v 0 = ((∑ t ∈ Finset.range v.length, v.getD t 0 : ℝ) : ℂ) := by
    simp [dftBin_eq]
  rw [refSpectrum, real, ← Complex.ofReal_natCast, ← Complex.ofReal_one, ← Complex.ofReal_div, ← Complex.ofReal_mul,
    Complex.ofReal_im]

/-! ## Packed spectra -/

theorem packSpectrum_getD {l k : ℕ} (X : ℕ → ℂ) (hk : k < l) :
    (packSpectrum l X).getD k 0 = if 2 * k ≤ l then (X k).re else (X (l - k)).im := by
  simp [packSpectrum, List.getD, hk]

theorem packSpectrum_congr {l : ℕ} {X Y : ℕ → ℂ} (same : ∀ k, k < l → X k = Y k) : packSpectrum l X = packSpectrum l Y := by
  refine List.map_congr_left fun k hk => ?_
  have hk := List.mem_range.mp hk
  split
  · rw [same k hk]
  · rw [same (l - k) (by omega)]

/-- The bin-wise product of packed spectra, whose bins 0 and `l/2` are real (00_scope R14, R15). -/
theorem pmul_packSpectrum {b : ℕ} {X Y : ℕ → ℂ} (zero : (X 0).im = 0) (half : (X b).im = 0) :
    pmul (2 * b) (packSpectrum (2 * b) X) (packSpectrum (2 * b) Y) = packSpectrum (2 * b) fun k => X k * Y k := by
  unfold pmul
  refine List.map_congr_left fun k hk => ?_
  have hk := List.mem_range.mp hk
  dsimp only
  by_cases real : k = 0 ∨ 2 * k = 2 * b
  · have im : (X k).im = 0 := by
      rcases real with rfl | atHalf
      · exact zero
      · rwa [show k = b by omega]
    rw [if_pos real, if_pos (by omega), packSpectrum_getD X hk, packSpectrum_getD Y hk, if_pos (by omega),
      if_pos (by omega), Complex.mul_re, im, zero_mul, sub_zero]
  · have hm : 2 * b - k < 2 * b := by omega
    rw [if_neg real, packSpectrum_getD X hk, packSpectrum_getD Y hk, packSpectrum_getD X hm, packSpectrum_getD Y hm]
    by_cases low : 2 * k < 2 * b
    · have mirrorHigh : ¬2 * (2 * b - k) ≤ 2 * b := by omega
      have mirror : 2 * b - (2 * b - k) = k := by omega
      simp only [if_pos low, if_pos low.le, if_neg mirrorHigh, mirror, Complex.mul_re]
    · have high : ¬2 * k ≤ 2 * b := by omega
      have mirrorLow : 2 * (2 * b - k) ≤ 2 * b := by omega
      simp only [if_neg low, if_neg high, if_pos mirrorLow, Complex.mul_im]

theorem packSpectrum_smul (l : ℕ) (c : ℝ) (X : ℕ → ℂ) :
    (packSpectrum l X).map (fun a => c * a) = packSpectrum l fun k => (c : ℂ) * X k := by
  rw [packSpectrum, packSpectrum, List.map_map]
  refine List.map_congr_left fun k _ => ?_
  rw [Function.comp_apply, Complex.re_ofReal_mul, Complex.im_ofReal_mul, mul_ite]

theorem packSpectrum_add (l : ℕ) (X Y : ℕ → ℂ) :
    List.zipWith (fun a b => a + b) (packSpectrum l X) (packSpectrum l Y) = packSpectrum l fun k => X k + Y k := by
  refine List.ext_getElem (by simp) fun k _ _ => ?_
  simp only [packSpectrum, List.getElem_zipWith, List.getElem_map, List.getElem_range, Complex.add_re, Complex.add_im]
  split <;> rfl

/-- The spectrum that a packed transform stands for is that of the vector. -/
theorem packedBin_refForward {v : List ℝ} {b k : ℕ} (length : v.length = 2 * b) (hk : k < 2 * b) :
    packedBin (refForward v) k = refSpectrum v k := by
  have word {i : ℕ} (hi : i < 2 * b) :
      (refForward v).getD i 0 = if 2 * i ≤ 2 * b then (refSpectrum v i).re else (refSpectrum v (2 * b - i)).im := by
    rw [refForward, length, packSpectrum_getD _ hi]
  rw [packedBin, refForward_length, length]
  rw [word hk]
  by_cases real : k = 0 ∨ 2 * k = 2 * b
  · have im : (refSpectrum v k).im = 0 := by
      rcases real with rfl | atHalf
      · exact refSpectrum_zero_im v
      · exact refSpectrum_half_im (by omega)
    rw [if_pos real, if_pos (by omega)]
    exact Complex.ext rfl im.symm
  · rw [if_neg real, word (show 2 * b - k < 2 * b by omega)]
    by_cases low : 2 * k < 2 * b
    · rw [if_pos low, if_pos low.le, if_neg (by omega), show 2 * b - (2 * b - k) = k by omega]
    · have mirror := refSpectrum_mirror (v := v) (k := 2 * b - k) (by omega)
      rw [length, show 2 * b - (2 * b - k) = k by omega] at mirror
      rw [if_neg low, if_pos (by omega), if_neg (by omega), mirror]
      rfl

/-! ## Inversion -/

/-- The unnormalised inverse undoes the forward transform with its `1/L`. -/
theorem refInverse_refForward {v : List ℝ} {b : ℕ} (pos : 1 ≤ b) (length : v.length = 2 * b) :
    refInverse (refForward v) = v := by
  have nonzero : ((2 * b : ℕ) : ℂ) ≠ 0 := Nat.cast_ne_zero.mpr (by omega)
  have sample {t : ℕ} (ht : t < 2 * b) :
      ∑ k ∈ Finset.range (2 * b), refSpectrum v k * unitRoot (2 * b) ^ (k * t) = ((v.getD t 0 : ℝ) : ℂ) := calc
    _ = ∑ k ∈ Finset.range (2 * b), ∑ m ∈ Finset.range (2 * b), 1 / ((2 * b : ℕ) : ℂ) * ((v.getD m 0 : ℝ) : ℂ) *
          ((unitRoot (2 * b))⁻¹ ^ (k * m) * unitRoot (2 * b) ^ (k * t)) := by
        refine sum_congr rfl fun k _ => ?_
        rw [refSpectrum, dftBin_eq, length, mul_sum, sum_mul]
        exact sum_congr rfl fun m _ => by ring
    _ = ∑ m ∈ Finset.range (2 * b), 1 / ((2 * b : ℕ) : ℂ) * ((v.getD m 0 : ℝ) : ℂ) *
          if t = m then ((2 * b : ℕ) : ℂ) else 0 := by
        rw [Finset.sum_comm]
        refine sum_congr rfl fun m hm => ?_
        rw [← mul_sum, sum_unitRoot (by omega) ht (Finset.mem_range.mp hm)]
    _ = ((v.getD t 0 : ℝ) : ℂ) := by
        simp only [mul_ite, mul_zero, Finset.sum_ite_eq, Finset.mem_range, ht, if_true]
        field_simp
  rw [refInverse_eq, refForward_length, length]
  refine List.ext_getElem (by simp [length]) fun t ht hv => ?_
  have ht : t < 2 * b := by simpa using ht
  rw [List.getElem_map, List.getElem_range, ← List.getD_eq_getElem v 0 hv, ← Complex.ofReal_re (v.getD t 0), ← sample ht]
  refine congrArg Complex.re (sum_congr rfl fun k hk => ?_)
  rw [packedBin_refForward length (Finset.mem_range.mp hk), exp_eq_unitRoot_pow]

/-! ## Convolution -/

/-- A sum over one turn may begin anywhere. -/
theorem sum_shift {l : ℕ} (pos : 1 ≤ l) (f : ℕ → ℂ) (m : ℕ) :
    ∑ t ∈ Finset.range l, f (((t : ℤ) - m) % l).toNat = ∑ s ∈ Finset.range l, f s := by
  have turn : (0 : ℤ) < l := by omega
  refine Finset.sum_nbij' (fun t => (((t : ℤ) - m) % l).toNat) (fun s => (s + m) % l) ?_ ?_ ?_ ?_ fun _ _ => rfl
  · intro t _
    have := Int.emod_nonneg ((t : ℤ) - m) turn.ne'
    have := Int.emod_lt_of_pos ((t : ℤ) - m) turn
    exact Finset.mem_range.mpr (by omega)
  · exact fun s _ => Finset.mem_range.mpr (Nat.mod_lt _ pos)
  · intro t ht
    have ht := Finset.mem_range.mp ht
    apply Int.natCast_inj.mp
    push_cast
    rw [Int.toNat_of_nonneg (Int.emod_nonneg _ turn.ne'), Int.emod_add_emod, sub_add_cancel,
      Int.emod_eq_of_lt (by omega) (by omega)]
  · intro s hs
    have hs := Finset.mem_range.mp hs
    push_cast
    rw [Int.emod_sub_emod, add_sub_cancel_right, Int.emod_eq_of_lt (by omega) (by omega), Int.toNat_natCast]

/-- Going back `m` samples turns the phase by that much. -/
theorem unitRoot_inv_pow_shift {l : ℕ} (pos : 1 ≤ l) (k m t : ℕ) :
    (unitRoot l)⁻¹ ^ (k * t) = (unitRoot l)⁻¹ ^ (k * m) * (unitRoot l)⁻¹ ^ (k * (((t : ℤ) - m) % l).toNat) := by
  have turn : (0 : ℤ) < l := by omega
  have back : (m + (((t : ℤ) - m) % l).toNat) % l = t % l := by
    apply Int.natCast_inj.mp
    push_cast
    rw [Int.toNat_of_nonneg (Int.emod_nonneg _ turn.ne'), Int.add_emod_emod, add_sub_cancel]
  rw [← pow_add, ← Nat.mul_add, ← unitRoot_inv_pow_mod pos k t, ← back, unitRoot_inv_pow_mod pos]

theorem circconv_length {l : ℕ} (a b : List ℝ) : (circconv l a b).length = l := by
  rw [circconv_eq, List.length_map, List.length_range]

/-- The convolution theorem: the spectrum of a circular convolution is the product of the spectra. -/
theorem dftBin_circconv {l : ℕ} (pos : 1 ≤ l) {a b : List ℝ} (ha : a.length = l) (hb : b.length = l) (k : ℕ) :
    dftBin (circconv l a b) k = dftBin a k * dftBin b k := by
  let w := (unitRoot l)⁻¹
  have word {t : ℕ} (ht : t < l) : ((circconv l a b).getD t 0 : ℝ) =
      ∑ m ∈ Finset.range l, a.getD m 0 * b.getD (((t : ℤ) - m) % l).toNat 0 := by
    rw [circconv_eq]
    simp [List.getD, ht]
  calc dftBin (circconv l a b) k
    _ = ∑ t ∈ Finset.range l, ∑ m ∈ Finset.range l, ((a.getD m 0 : ℝ) : ℂ) * w ^ (k * m) *
          (((b.getD (((t : ℤ) - m) % l).toNat 0 : ℝ) : ℂ) * w ^ (k * (((t : ℤ) - m) % l).toNat)) := by
        rw [dftBin_eq, circconv_length]
        refine sum_congr rfl fun t ht => ?_
        rw [word (Finset.mem_range.mp ht), Complex.ofReal_sum, sum_mul]
        refine sum_congr rfl fun m _ => ?_
        rw [unitRoot_inv_pow_shift pos k m t, Complex.ofReal_mul]
        ring
    _ = ∑ m ∈ Finset.range l, ((a.getD m 0 : ℝ) : ℂ) * w ^ (k * m) *
          ∑ s ∈ Finset.range l, ((b.getD s 0 : ℝ) : ℂ) * w ^ (k * s) := by
        rw [Finset.sum_comm]
        refine sum_congr rfl fun m _ => ?_
        rw [← mul_sum, sum_shift pos (fun s => ((b.getD s 0 : ℝ) : ℂ) * w ^ (k * s))]
    _ = dftBin a k * dftBin b k := by rw [← sum_mul, dftBin_eq, dftBin_eq, ha, hb]

/-- The packed product times `L` is the transform of the circular convolution. -/
theorem pmul_refForward {h : ℕ} (pos : 1 ≤ h) {a b : List ℝ} (ha : a.length = 2 * h) (hb : b.length = 2 * h) :
    (pmul (2 * h) (refForward a) (refForward b)).map (fun c => ((2 * h : ℕ) : ℝ) * c) =
      refForward (circconv (2 * h) a b) := by
  have nonzero : ((2 * h : ℕ) : ℂ) ≠ 0 := Nat.cast_ne_zero.mpr (by omega)
  rw [refForward, refForward, refForward, ha, hb, circconv_length,
    pmul_packSpectrum (refSpectrum_zero_im a) (refSpectrum_half_im ha), packSpectrum_smul]
  refine packSpectrum_congr fun k _ => ?_
  rw [refSpectrum, refSpectrum, refSpectrum, ha, hb, circconv_length, dftBin_circconv (by omega) ha hb,
    Complex.ofReal_natCast]
  field_simp

/-! ## Linearity -/

section
variable {l : ℕ}

theorem zipWith_add_getD {u v : List ℝ} (hu : u.length = l) (hv : v.length = l) (k : ℕ) :
    (List.zipWith (fun a b => a + b) u v).getD k 0 = u.getD k 0 + v.getD k 0 := by
  rcases Nat.lt_or_ge k l with inside | beyond
  · rw [List.getD_eq_getElem _ _ (by simp [hu, hv, inside]), List.getD_eq_getElem _ _ (by omega),
      List.getD_eq_getElem _ _ (by omega), List.getElem_zipWith]
  · rw [List.getD_eq_default _ _ (by simp [hu, hv, beyond]), List.getD_eq_default _ _ (by omega),
      List.getD_eq_default _ _ (by omega), add_zero]

theorem map_mul_getD (c : ℝ) (v : List ℝ) (k : ℕ) : (v.map fun a => c * a).getD k 0 = c * v.getD k 0 := by
  rcases Nat.lt_or_ge k v.length with inside | beyond
  · rw [List.getD_eq_getElem _ _ (by simpa using inside), List.getD_eq_getElem _ _ inside, List.getElem_map]
  · rw [List.getD_eq_default _ _ (by simpa using beyond), List.getD_eq_default _ _ beyond, mul_zero]

theorem refSpectrum_add {u v : List ℝ} (hu : u.length = l) (hv : v.length = l) (k : ℕ) :
    refSpectrum (List.zipWith (fun a b => a + b) u v) k = refSpectrum u k + refSpectrum v k := by
  have length : (List.zipWith (fun a b => a + b) u v).length = l := by simp [hu, hv]
  rw [refSpectrum, refSpectrum, refSpectrum, dftBin_eq, dftBin_eq, dftBin_eq, length, hu, hv, ← mul_add,
    ← sum_add_distrib]
  refine congrArg _ (sum_congr rfl fun t _ => ?_)
  rw [zipWith_add_getD hu hv, Complex.ofReal_add, add_mul]

theorem refSpectrum_smul (c : ℝ) (v : List ℝ) (k : ℕ) :
    refSpectrum (v.map fun a => c * a) k = (c : ℂ) * refSpectrum v k := by
  rw [refSpectrum, refSpectrum, dftBin_eq, dftBin_eq, List.length_map, mul_left_comm, mul_sum (a := (c : ℂ))]
  refine congrArg _ (sum_congr rfl fun t _ => ?_)
  rw [map_mul_getD, Complex.ofReal_mul, mul_assoc]

theorem refForward_linear (l : ℕ) : LinearOn l refForward := by
  refine ⟨fun u v hu hv => ?_, fun c v _ => ?_⟩
  · rw [refForward, refForward, refForward, hu, hv, packSpectrum_add,
      show (List.zipWith (fun a b => a + b) u v).length = l by simp [hu, hv]]
    exact packSpectrum_congr fun k _ => refSpectrum_add hu hv k
  · rw [refForward, refForward, packSpectrum_smul, List.length_map]
    exact packSpectrum_congr fun k _ => refSpectrum_smul c v k

theorem packedBin_add {u v : List ℝ} (hu : u.length = l) (hv : v.length = l) (k : ℕ) :
    packedBin (List.zipWith (fun a b => a + b) u v) k = packedBin u k + packedBin v k := by
  have length : (List.zipWith (fun a b => a + b) u v).length = l := by simp [hu, hv]
  simp only [packedBin, length, hu, hv, zipWith_add_getD hu hv]
  split
  · exact Complex.ofReal_add _ _
  · split
    · rfl
    · exact Complex.ext rfl (neg_add _ _)

theorem packedBin_smul (c : ℝ) (v : List ℝ) (k : ℕ) :
    packedBin (v.map fun a => c * a) k = (c : ℂ) * packedBin v k := by
  simp only [packedBin, List.length_map, map_mul_getD]
  split
  · exact Complex.ofReal_mul _ _
  · split <;> apply Complex.ext <;> simp

theorem refInverse_linear (l : ℕ) : LinearOn l refInverse := by
  refine ⟨fun u v hu hv => ?_, fun c v _ => ?_⟩
  · have length : (List.zipWith (fun a b => a + b) u v).length = l := by simp [hu, hv]
    rw [refInverse_eq, refInverse_eq, refInverse_eq, length, hu, hv]
    refine List.ext_getElem (by simp) fun t _ _ => ?_
    simp only [List.getElem_map, List.getElem_zipWith, List.getElem_range, packedBin_add hu hv, add_mul,
      sum_add_distrib, Complex.add_re]
  · rw [refInverse_eq, refInverse_eq, List.length_map, List.map_map]
    refine List.map_congr_left fun t _ => ?_
    simp only [packedBin_smul, mul_assoc, ← mul_sum, Function.comp_apply, Complex.re_ofReal_mul]

end

end Sys2Proof.Machine

/-! The reference FFT meets the contract of the FFT primitive (43_fft_port R119). -/

namespace Sys2Proof.Machine

theorem refForward_keepsLength (l : ℕ) : KeepsLength l refForward := fun v length => (refForward_length v).trans length

theorem refInverse_keepsLength (l : ℕ) : KeepsLength l refInverse := fun v length => (refInverse_length v).trans length

theorem refForward_givesPackedSpectrum {l : ℕ} (pos : 1 ≤ l) : GivesPackedSpectrum l refForward := by
  refine ⟨1 / l, by positivity, fun v length => ?_⟩
  rw [refForward, length]
  refine packSpectrum_congr fun k _ => ?_
  rw [refSpectrum, length, Complex.ofReal_div, Complex.ofReal_one, Complex.ofReal_natCast]

theorem reference_exactContract {b : ℕ} (pos : 1 ≤ b) : ExactContract (2 * b) refForward refInverse where
  fwdLength := refForward_keepsLength _
  invLength := refInverse_keepsLength _
  fwdLinear := refForward_linear _
  invLinear := refInverse_linear _
  convolution a c ha hc := by
    rw [pmul_refForward pos ha hc, refInverse_refForward pos (circconv_length a c)]
  layout := refForward_givesPackedSpectrum (by omega)

/-! ## On words -/

section
variable {f : List ℝ → List ℝ} (free : List Word → ℕ → Word)

theorem roundedTransform_of_finite {v : List Word} (finite : ∀ w ∈ v, fpIsFinite w = true) :
    roundedTransform f free v = (f (v.map fpReal)).map roundReal := by
  rw [roundedTransform, if_pos (List.all_eq_true.mpr finite)]

/-- P3: a linear transform maps zeros to zeros, and an exact zero is rounded to `+0.0`. -/
theorem zerosToZeros_roundedTransform (linear : ∀ l, LinearOn l f) (keeps : ∀ l, KeepsLength l f) :
    ZerosToZeros (roundedTransform f free) := by
  intro v zeros w mem
  have reals : v.map fpReal = List.replicate v.length 0 := by
    refine List.eq_replicate_iff.mpr ⟨List.length_map _, fun r hr => ?_⟩
    obtain ⟨z, hz, rfl⟩ := List.mem_map.mp hr
    simp [fpReal, fpValue_eq, fpMagnitude_of_isZero (zeros z hz)]
  rw [roundedTransform_of_finite free fun z hz => fpIsFinite_of_isZero (zeros z hz), reals,
    (linear _).map_zeros (keeps _), List.map_replicate, roundReal_zero] at mem
  rw [List.eq_of_mem_replicate mem]
  exact fpIsZero_plusZero

theorem roundedTransform_rounds {v : List Word} (finite : ∀ w ∈ v, fpIsFinite w = true) {k : ℕ} {r : ℝ}
    (value : (f (v.map fpReal))[k]? = some r) :
    ∃ w, (roundedTransform f free v)[k]? = some w ∧ RoundsRealTo r w := by
  refine ⟨roundReal r, ?_, roundsRealTo_roundReal r⟩
  rw [roundedTransform_of_finite free finite, List.getElem?_map, value, Option.map_some]

end

/-- Settles O59: the sums of R16 are linear, inverse to each other and meet the convolution theorem, and each word is
`roundReal` of its exact value. -/
theorem referenceFftMeetsTheContract : Obligations.ReferenceFftMeetsTheContract :=
  ⟨fun _ pos => ⟨reference_exactContract pos, fun v length => ⟨refSpectrum_zero_im v, refSpectrum_half_im length⟩⟩,
    zerosToZeros_roundedTransform _ refForward_linear refForward_keepsLength,
    zerosToZeros_roundedTransform _ refInverse_linear refInverse_keepsLength,
    fun v => ⟨roundedTransform_length _ _ v refForward_length, roundedTransform_length _ _ v refInverse_length,
      fun finite _ _ => ⟨roundedTransform_rounds _ finite, roundedTransform_rounds _ finite⟩⟩⟩

end Sys2Proof.Machine
